-- ==== Sys2Proof/Word.lean ====
section
/-! DEFINITION. The widths the block works in (spec/00_scope.md R7). -/

namespace Sys2Proof

/-- Every wire datum: an 8-bit unsigned byte (R7 (a)). -/
abbrev Byte := BitVec 8

/-- The request field `exp_len`: 16 bits unsigned (spec/30_encoding.md R70). -/
abbrev Half := BitVec 16

/-- A timeout in ms (R7 (c)) and the word result `res_word` (R7 (e)): 32 bits unsigned. -/
abbrev Word := BitVec 32

end Sys2Proof
end

