-- ==== Sys2Proof/Syntax.lean ====
section
/-! DEFINITION. The operations of the block (spec/30_encoding.md R72, spec/opcode_table.json), one constructor a row, and
the request record that selects one (R70). -/

namespace Sys2Proof

/-- An operation with the request fields its rule reads (R70), and no others. -/
inductive Instr where
  /-- 0x01 `ENCODE_COMMAND` (spec/40_codec.md R106). -/
  | encodeCommand (data : List Byte)
  /-- 0x02 `GEN_CHECKSUM` (spec/40_codec.md R102). -/
  | genChecksum (data : List Byte)
  /-- 0x03 `VERIFY_ACK` (spec/40_codec.md R111). -/
  | verifyAck (data : List Byte)
  /-- 0x04 `DECODE_RESPONSE` (spec/40_codec.md R116). -/
  | decodeResponse (data : List Byte) (expLen : Half)
  /-- 0x05 `CHECK_FRAME` (spec/40_codec.md R121). -/
  | checkFrame (data : List Byte) (tfi : Byte)
  /-- 0x10 `WAIT_READY` (spec/41_session_fsm.md R155). -/
  | waitReady (timeout : Word)
  /-- 0x11 `SEND_COMMAND` (spec/41_session_fsm.md R156). -/
  | sendCommand (data : List Byte) (timeout : Word)
  /-- 0x12 `TRANSCEIVE` (spec/41_session_fsm.md R157). -/
  | transceive (data : List Byte) (expLen : Half) (timeout : Word)
  /-- 0x13 `READ_RESPONSE` (spec/41_session_fsm.md R158). -/
  | readResponse (expLen : Half) (timeout : Word)
  /-- 0x20 `GET_FIRMWARE_VERSION` (spec/42_typed_operations.md R190). -/
  | getFirmwareVersion (timeout : Word)
  /-- 0x21 `CONFIGURE_SAM` (spec/42_typed_operations.md R195). -/
  | configureSam
  /-- 0x22 `START_PASSIVE_DETECTION` (spec/42_typed_operations.md R200). -/
  | startPassiveDetection (brty : Byte)
  /-- 0x23 `READ_DETECTED_TARGET` (spec/42_typed_operations.md R205). -/
  | readDetectedTarget (timeout : Word)
deriving DecidableEq, Repr

/-- The request record (R70): all fields are present in every request. A field left out has the default of R82. -/
structure Request where
  /-- The operation select code. -/
  opsel : Byte
  /-- Command payload, or the input bytes of a pure codec operation. -/
  data : List Byte := []
  /-- Expected response length in bytes, readiness byte excluded. -/
  expLen : Half := 0
  /-- Readiness budget of each poll loop, ms. -/
  timeout : Word := 0
  /-- Expected direction byte. -/
  tfi : Byte := 0
  /-- Baud-rate selector byte. -/
  brty : Byte := 0
deriving DecidableEq, Repr

end Sys2Proof
end

