-- ==== Sys2Proof/Decode.lean ====
section
/-! DEFINITION. The decoder of request records (spec/30_encoding.md R70, R72, R80) and the encoder written from the same
table. A request record is no string of bits (R81): `opsel` alone selects the operation, and the fields the operation does
not read are ignored. -/

namespace Sys2Proof

/-- The rows of the operation select map (R72). -/
inductive Op where
  | encodeCommand | genChecksum | verifyAck | decodeResponse | checkFrame
  | waitReady | sendCommand | transceive | readResponse
  | getFirmwareVersion | configureSam | startPassiveDetection | readDetectedTarget
deriving DecidableEq, Repr

/-- The select code of each row (R72). -/
def Op.code : Op → Byte
  | .encodeCommand => 0x01
  | .genChecksum => 0x02
  | .verifyAck => 0x03
  | .decodeResponse => 0x04
  | .checkFrame => 0x05
  | .waitReady => 0x10
  | .sendCommand => 0x11
  | .transceive => 0x12
  | .readResponse => 0x13
  | .getFirmwareVersion => 0x20
  | .configureSam => 0x21
  | .startPassiveDetection => 0x22
  | .readDetectedTarget => 0x23

/-- Every row, in the table's order. -/
def Op.all : List Op :=
  [.encodeCommand, .genChecksum, .verifyAck, .decodeResponse, .checkFrame, .waitReady, .sendCommand, .transceive,
    .readResponse, .getFirmwareVersion, .configureSam, .startPassiveDetection, .readDetectedTarget]

/-- The mask under which `opsel` is compared: all 8 bits (R72). -/
def opselMask : Byte := 0xFF

/-- The row a select code names, or none if the code is reserved (R72). -/
def Op.ofCode (b : Byte) : Option Op := Op.all.find? (fun o => b &&& opselMask == o.code)

/-- Why the decoder refuses a request. -/
inductive DecodeReject where
  /-- `opsel` is not in the table of R72. The machine does not stop: acceptance raises `UnknownOperation`. -/
  | reservedOpsel (opsel : Byte)
deriving DecidableEq, Repr

/-- The operation of a table row, with its operands taken from the request's fields (R70). -/
def Op.instr (r : Request) : Op → Instr
  | .encodeCommand => .encodeCommand r.data
  | .genChecksum => .genChecksum r.data
  | .verifyAck => .verifyAck r.data
  | .decodeResponse => .decodeResponse r.data r.expLen
  | .checkFrame => .checkFrame r.data r.tfi
  | .waitReady => .waitReady r.timeout
  | .sendCommand => .sendCommand r.data r.timeout
  | .transceive => .transceive r.data r.expLen r.timeout
  | .readResponse => .readResponse r.expLen r.timeout
  | .getFirmwareVersion => .getFirmwareVersion r.timeout
  | .configureSam => .configureSam
  | .startPassiveDetection => .startPassiveDetection r.brty
  | .readDetectedTarget => .readDetectedTarget r.timeout

/-- The decoder: total on every request record. -/
def decode (r : Request) : Except DecodeReject Instr :=
  match Op.ofCode r.opsel with
  | some o => .ok (o.instr r)
  | none => .error (.reservedOpsel r.opsel)

/-- The table row of an operation. -/
def Instr.op : Instr → Op
  | .encodeCommand _ => .encodeCommand
  | .genChecksum _ => .genChecksum
  | .verifyAck _ => .verifyAck
  | .decodeResponse _ _ => .decodeResponse
  | .checkFrame _ _ => .checkFrame
  | .waitReady _ => .waitReady
  | .sendCommand _ _ => .sendCommand
  | .transceive _ _ _ => .transceive
  | .readResponse _ _ => .readResponse
  | .getFirmwareVersion _ => .getFirmwareVersion
  | .configureSam => .configureSam
  | .startPassiveDetection _ => .startPassiveDetection
  | .readDetectedTarget _ => .readDetectedTarget

/-- The encoder: the request record of an operation, every field the operation does not read at the default of R82. -/
def encode : Instr → Request
  | .encodeCommand data => { opsel := 0x01, data := data }
  | .genChecksum data => { opsel := 0x02, data := data }
  | .verifyAck data => { opsel := 0x03, data := data }
  | .decodeResponse data expLen => { opsel := 0x04, data := data, expLen := expLen }
  | .checkFrame data tfi => { opsel := 0x05, data := data, tfi := tfi }
  | .waitReady timeout => { opsel := 0x10, timeout := timeout }
  | .sendCommand data timeout => { opsel := 0x11, data := data, timeout := timeout }
  | .transceive data expLen timeout => { opsel := 0x12, data := data, expLen := expLen, timeout := timeout }
  | .readResponse expLen timeout => { opsel := 0x13, expLen := expLen, timeout := timeout }
  | .getFirmwareVersion timeout => { opsel := 0x20, timeout := timeout }
  | .configureSam => { opsel := 0x21 }
  | .startPassiveDetection brty => { opsel := 0x22, brty := brty }
  | .readDetectedTarget timeout => { opsel := 0x23, timeout := timeout }

/-- Does the operation read the request's `data` (R70, last column)? -/
def Op.readsData : Op → Bool
  | .encodeCommand | .genChecksum | .verifyAck | .decodeResponse | .checkFrame | .sendCommand | .transceive => true
  | .waitReady | .readResponse | .getFirmwareVersion | .configureSam | .startPassiveDetection
  | .readDetectedTarget => false

/-- Does the operation read the request's `exp_len` (R70, last column)? -/
def Op.readsExpLen : Op → Bool
  | .decodeResponse | .transceive | .readResponse => true
  | .encodeCommand | .genChecksum | .verifyAck | .checkFrame | .waitReady | .sendCommand | .getFirmwareVersion
  | .configureSam | .startPassiveDetection | .readDetectedTarget => false

/-- Does the operation read the request's `timeout` (R70, last column)? -/
def Op.readsTimeout : Op → Bool
  | .waitReady | .sendCommand | .transceive | .readResponse | .getFirmwareVersion | .readDetectedTarget => true
  | .encodeCommand | .genChecksum | .verifyAck | .decodeResponse | .checkFrame | .configureSam
  | .startPassiveDetection => false

/-- Does the operation read the request's `tfi` (R70, last column)? -/
def Op.readsTfi : Op → Bool
  | .checkFrame => true
  | .encodeCommand | .genChecksum | .verifyAck | .decodeResponse | .waitReady | .sendCommand | .transceive
  | .readResponse | .getFirmwareVersion | .configureSam | .startPassiveDetection | .readDetectedTarget => false

/-- Does the operation read the request's `brty` (R70, last column)? -/
def Op.readsBrty : Op → Bool
  | .startPassiveDetection => true
  | .encodeCommand | .genChecksum | .verifyAck | .decodeResponse | .checkFrame | .waitReady | .sendCommand
  | .transceive | .readResponse | .getFirmwareVersion | .configureSam | .readDetectedTarget => false

/-- The request with every field its operation does not read set to the default of R82. Those fields have no effect (R80). -/
def Request.canonical (o : Op) (r : Request) : Request where
  opsel := o.code
  data := if o.readsData then r.data else []
  expLen := if o.readsExpLen then r.expLen else 0
  timeout := if o.readsTimeout then r.timeout else 0
  tfi := if o.readsTfi then r.tfi else 0
  brty := if o.readsBrty then r.brty else 0

/-- The request whose table word is `w`: the table gives a row the 8 bits of `opsel` and no operand bits, so every other
field is at its default (log 16). -/
def requestOfTableWord (w : Nat) : Request := { opsel := BitVec.ofNat 8 w }

/-- The instruction the decoder reads from the table word `w` of `nbits` bits; none where the decoder refuses, and none
for a word with more than 8 bits, which is no `opsel`. -/
def decodeTableWord (nbits w : Nat) : Option Instr :=
  if 0 < nbits ∧ w < 256 then (decode (requestOfTableWord w)).toOption else none

end Sys2Proof
end

