-- ==== Sys2Proof/Config.lean ====
section
/-! DEFINITION. What an instance of the block fixes (spec/00_scope.md R6) and the free values: the answers of the
transport oracle (spec/20_memory.md R56). -/

namespace Sys2Proof.Config

/-- The configuration parameters of R6. They are arguments of the model: every state carries them (`State.cfg`), no step
writes them, and a statement about every state is a statement about every value of them (log 1).
The bounds that concern one field alone are in its type: `SAM_PAYLOAD` has 3 bytes, `SAM_OK_OFFSET` is 0..8,
`NBTG_OFFSET` and `UIDLEN_OFFSET` are 0..19, `UID_OFFSET` is 0..20, `DEFAULT_TIMEOUT_MS` is 32 bits. -/
structure Params where
  /-- `MAX_PAYLOAD`, legal values 1..254. -/
  maxPayload : Nat
  /-- `POLL_INTERVAL_MS`, legal values at least 1. -/
  pollInterval : Nat
  /-- `DEFAULT_TIMEOUT_MS`. -/
  defaultTimeout : Word
  /-- `VERIFY_RSP_CHECKSUM`. -/
  verifyRspChecksum : Bool
  /-- `PEER_ADDR`, opaque to the block: it is passed on and never interpreted (spec/20_memory.md R59). -/
  peerAddr : Nat
  /-- `SAM_PAYLOAD`, 3 bytes. -/
  samPayload : Vector Byte 3
  /-- `SAM_OK_OFFSET`. -/
  samOkOffset : Fin 9
  /-- `SAM_OK_MARKER`. -/
  samOkMarker : Byte
  /-- `CMD_INLIST`. -/
  cmdInlist : Byte
  /-- `NBTG_OFFSET`. -/
  nbtgOffset : Fin 20
  /-- `UIDLEN_OFFSET`. -/
  uidLenOffset : Fin 20
  /-- `UID_OFFSET`. -/
  uidOffset : Fin 21
deriving DecidableEq, Repr

/-- The legal values of R6 that the types do not already enforce. -/
abbrev Params.Legal (p : Params) : Prop :=
  1 ≤ p.maxPayload ∧ p.maxPayload ≤ 254 ∧ 1 ≤ p.pollInterval

/-- `FRAME_OVERHEAD` (spec/30_encoding.md R71): preamble, two start bytes, length, its checksum, direction, data
checksum, postamble. -/
abbrev frameOverhead : Nat := 8

/-- `MAX_CMD_FRAME = MAX_PAYLOAD + 8`, the capacity of `txbuf`. -/
def Params.maxCmdFrame (p : Params) : Nat := p.maxPayload + frameOverhead

/-- `RX_MAX_FRAME = max(MAX_PAYLOAD + 8, 20)`, the capacity of `res_bytes`. -/
def Params.rxMaxFrame (p : Params) : Nat := max (p.maxPayload + frameOverhead) 20

/-- `RX_CAP = RX_MAX_FRAME + 1`, the capacity of `rxbuf`. -/
def Params.rxCap (p : Params) : Nat := p.rxMaxFrame + 1

/-- The parameter values every vector of spec/95_test_vectors.md uses unless it says otherwise; `State.reset` starts with
them. DESIGN CHOICE: R6 leaves the values OPEN. PRESUMED: the SAM and detection constants are the candidates of
spec/93_implementation_defined.md G3 to G6, which come from general knowledge. No statement rests on any of them (log 1). -/
def vectorParams : Params where
  maxPayload := 254
  pollInterval := 10
  defaultTimeout := 100
  verifyRspChecksum := false
  peerAddr := 0
  samPayload := #v[0x14, 0x01, 0x14]
  samOkOffset := 6
  samOkMarker := 0x15
  cmdInlist := 0x4A
  nbtgOffset := 7
  uidLenOffset := 12
  uidOffset := 13

/-- Free value: whether the transport's k-th free answer is `Ok` (spec/20_memory.md R56, log 2). Nothing constrains it. -/
opaque freeAnswerOk : Nat → Bool

/-- Free value: byte i of the transport's k-th free answer (spec/20_memory.md R56, log 2). Nothing constrains it. -/
opaque freeAnswerByte : Nat → Nat → Byte

end Sys2Proof.Config
end

