-- ==== Sys2Proof/Machine/State.lean ====
section
/-! DEFINITION. The state of the block (spec/10_state.md), the inputs of the agents around it (spec/00_scope.md R17), the
event history (spec/41_session_fsm.md R160), and the reset state (spec/70_reset_and_hazards.md R260). -/

namespace Sys2Proof.Machine

open Config (Params)

/-- The values of the state register `st` (spec/10_state.md R21). Their codes are `St.code` of Machine/Flags.lean. Codes 9
to 15 of the 4-bit register are never held, and have no constructor (log 9). -/
inductive St where
  | idle | sending | awaitReadyAck | awaitAck | awaitReadyRsp | awaitRsp | done | timedOut | failed
deriving DecidableEq, Repr

/-- A buffer's bytes that hold a value: (index, byte) pairs, indices strictly rising. An index that is not listed holds NO
value (spec/10_state.md R28, log 15). -/
abbrev Memory := List Host.Cell

/-- One answer of the Transport Port (spec/20_memory.md R55). `readOk` carries the bytes read. -/
inductive PortAnswer where
  | ioError
  | writeOk
  | readOk (bytes : List Byte)
deriving DecidableEq, Repr

/-- One external event (spec/41_session_fsm.md R160). A transaction also records the peer address it went to
(spec/00_scope.md R12, spec/20_memory.md R59, log 11). -/
inductive Event where
  | write (peer : Nat) (bytes : List Byte) (answer : PortAnswer)
  | read (peer : Nat) (n : Nat) (answer : PortAnswer)
  | sleep (ms : Nat)
deriving DecidableEq, Repr

/-- What the caller does next (spec/00_scope.md R17 (4), log 4). -/
inductive CallerAct where
  /-- Present the request as soon as `st` is quiescent: the caller that serializes (spec/70_reset_and_hazards.md R265). -/
  | call (r : Request)
  /-- Present the request now, whatever `st` is (spec/20_memory.md R62). -/
  | present (r : Request)
  /-- Reset the block now (spec/70_reset_and_hazards.md R261). -/
  | reset
  /-- Let one session step pass. -/
  | pass
deriving DecidableEq, Repr

/-- The whole state. Fields up to `resBytes` are the spec's; see INVENTORY.md. -/
structure State where
  /-- The parameters of the instance (spec/00_scope.md R6); no step writes them. -/
  cfg : Params
  /-- The session state register (spec/10_state.md R21). -/
  st : St
  /-- The select code of the request in progress or last completed, reserved codes included (R23). -/
  op : Byte
  /-- Readiness budget of each poll loop, ms (R23). -/
  timeout : Word
  /-- Sleep time spent in the current poll loop, ms (R23). -/
  elapsed : Nat
  /-- Expected response length, readiness byte excluded (R23). -/
  expLen : Nat
  /-- Number of valid bytes in `txbuf` (R23). -/
  txlen : Nat
  /-- Number of valid bytes in `rxbuf` (R23). -/
  rxlen : Nat
  /-- Outcome code (spec/60_exceptions.md R231). -/
  status : Byte
  /-- Reason sub-code (spec/60_exceptions.md R232). -/
  reason : Byte
  /-- The state in which the error was raised (R23). -/
  failState : St
  /-- Boolean result (R23). -/
  resFlag : Bool
  /-- Word result (R23). -/
  resWord : Word
  /-- Number of valid bytes in `res_bytes` (R23). -/
  resLen : Nat
  /-- The command-frame buffer (R26). -/
  txbuf : Memory
  /-- The receive buffer (R27). -/
  rxbuf : Memory
  /-- Byte-sequence result (R23). -/
  resBytes : Memory
  /-- The event history, oldest event first (spec/41_session_fsm.md R160). Recorded, never read by a rule. -/
  history : List Event
  /-- The sticky verdict `ConcurrentInvocation` (spec/20_memory.md R62, log 5). -/
  concurrent : Bool
  /-- The model's own: what the caller does, in order (log 4). -/
  caller : List CallerAct
  /-- The model's own: the transport's answers, in the order the block asks for them; past the end they are free (log 2). -/
  transport : List PortAnswer
  /-- The model's own: how many free answers have been taken (log 2). -/
  oracleCalls : Nat
deriving DecidableEq, Repr

/-- Why the model stops with a fault. None is an outcome of the block (spec/60_exceptions.md R230, D38). -/
inductive Fault where
  /-- `BadState`: a register outside its legal range (spec/10_state.md R24, raised by `step`), or an operation that does not
  go with the session state (spec/41_session_fsm.md R154, raised by `sessionStep` and the interpretations). Safe. -/
  | badState
  /-- `BufferOverrun`: an access past a buffer's capacity (spec/20_memory.md R52, raised by `memRead` and `memWrite`). Safe. -/
  | bufferOverrun
  /-- A read of a buffer byte that holds no value (spec/10_state.md R28, raised by `memRead`). Safe. -/
  | noValue
deriving DecidableEq, Repr

/-- Why the model gives a step no meaning. -/
inductive Refusal where
  /-- An instruction with no meaning yet, by its mnemonic (raised by `exec`). Safe. -/
  | notModelled (mnemonic : String)
  /-- The parameters are outside the legal values of spec/00_scope.md R6: "A run whose premises fail is outside the model"
  (spec/70_reset_and_hazards.md R262, raised by `step`, log 8). Safe. -/
  | illegalParameters
deriving DecidableEq, Repr

/-- The outcome of a step of this machine. -/
abbrev Result := Host.Outcome State Fault Refusal

/-- The reset state of an instance with parameters `p` (spec/70_reset_and_hazards.md R260): every session register at the
value of the table of spec/10_state.md R23, no buffer byte with a value, an empty history. The model's own fields start
empty (DESIGN CHOICE, log 20). -/
def State.resetWith (p : Params) : State where
  cfg := p
  st := .idle
  op := 0x00
  timeout := 0
  elapsed := 0
  expLen := 0
  txlen := 0
  rxlen := 0
  status := 0xFF
  reason := 0x00
  failState := .idle
  resFlag := false
  resWord := 0x00000000
  resLen := 0
  txbuf := []
  rxbuf := []
  resBytes := []
  history := []
  concurrent := false
  caller := []
  transport := []
  oracleCalls := 0

/-- The machine right after reset, for the instance with the parameter values of spec/95_test_vectors.md (log 1). -/
def State.reset : State := State.resetWith Config.vectorParams

end Sys2Proof.Machine
end

