-- ==== Sys2Proof/Machine/Flags.lean ====
section
/-! DEFINITION. The block's "flags": the codes of `st`, the outcome codes of `status` (spec/60_exceptions.md R231), the
reason codes of `reason` (R232), and which state values are quiescent or terminal (spec/10_state.md R21). -/

namespace Sys2Proof.Machine

/-- The numeric code of a state (spec/10_state.md R21). -/
def St.code : St → BitVec 4
  | .idle => 0
  | .sending => 1
  | .awaitReadyAck => 2
  | .awaitAck => 3
  | .awaitReadyRsp => 4
  | .awaitRsp => 5
  | .done => 6
  | .timedOut => 7
  | .failed => 8

/-- The state a 4-bit code names; none for the codes 9 to 15, which are never held (R21). -/
def St.ofCode (c : BitVec 4) : Option St :=
  [St.idle, .sending, .awaitReadyAck, .awaitAck, .awaitReadyRsp, .awaitRsp, .done, .timedOut, .failed].find?
    (fun t => t.code == c)

/-- Quiescent: `Idle` or a terminal state (R21, spec/00_scope.md R16). -/
def St.quiescent : St → Bool
  | .idle | .done | .timedOut | .failed => true
  | .sending | .awaitReadyAck | .awaitAck | .awaitReadyRsp | .awaitRsp => false

/-- Terminal: `Done`, `TimedOut` or `Failed` (R21). -/
def St.terminal : St → Bool
  | .done | .timedOut | .failed => true
  | .idle | .sending | .awaitReadyAck | .awaitAck | .awaitReadyRsp | .awaitRsp => false

/-- Reasons of `InvalidArgument` (R232). -/
inductive ArgReason where
  | unknownOperation | dataTooLong | payloadEmpty | payloadTooLong | expLenTooLarge | badAckLength
deriving DecidableEq, Repr

/-- Reasons of `IoError` (R232). -/
inductive IoReason where
  | writeFailed | readyReadFailed | ackReadFailed | rspReadFailed
deriving DecidableEq, Repr

/-- Reasons of `TimedOut` (R232). -/
inductive TimeoutReason where
  | forAck | forResponse
deriving DecidableEq, Repr

/-- Reasons of `ProtocolError` (R232). -/
inductive ProtocolReason where
  | unexpectedHeader | configRejected | uidOverrun
deriving DecidableEq, Repr

/-- Reasons of `DecodeError` (R232). -/
inductive DecodeReason where
  | lengthMismatch | truncated | badStartCode | badLengthChecksum | badLength | badDirection | badDataChecksum
  | badPostamble
deriving DecidableEq, Repr

/-- The error kinds (R230), each with its reason. -/
inductive Err where
  | invalidArgument (r : ArgReason)
  | ioError (r : IoReason)
  | timedOut (r : TimeoutReason)
  | ackMismatch
  | protocolError (r : ProtocolReason)
  | decodeError (r : DecodeReason)
deriving DecidableEq, Repr

/-- The two successful outcomes (R230). -/
inductive Success where
  | ok | notFound
deriving DecidableEq, Repr

/-- `NONE`: no outcome yet (R231). -/
def statusNone : Byte := 0xFF

/-- The status code of a success (R231). -/
def Success.status : Success → Byte
  | .ok => 0x00
  | .notFound => 0x07

/-- The status code of an error (R231). -/
def Err.status : Err → Byte
  | .invalidArgument _ => 0x01
  | .ioError _ => 0x02
  | .timedOut _ => 0x03
  | .ackMismatch => 0x04
  | .protocolError _ => 0x05
  | .decodeError _ => 0x06

/-- The reason code of an error (R232). -/
def Err.reason : Err → Byte
  | .invalidArgument .unknownOperation => 0x01
  | .invalidArgument .dataTooLong => 0x02
  | .invalidArgument .payloadEmpty => 0x03
  | .invalidArgument .payloadTooLong => 0x04
  | .invalidArgument .expLenTooLarge => 0x05
  | .invalidArgument .badAckLength => 0x06
  | .ioError .writeFailed => 0x01
  | .ioError .readyReadFailed => 0x02
  | .ioError .ackReadFailed => 0x03
  | .ioError .rspReadFailed => 0x04
  | .timedOut .forAck => 0x01
  | .timedOut .forResponse => 0x02
  | .ackMismatch => 0x00
  | .protocolError .unexpectedHeader => 0x01
  | .protocolError .configRejected => 0x02
  | .protocolError .uidOverrun => 0x03
  | .decodeError .lengthMismatch => 0x01
  | .decodeError .truncated => 0x02
  | .decodeError .badStartCode => 0x03
  | .decodeError .badLengthChecksum => 0x04
  | .decodeError .badLength => 0x05
  | .decodeError .badDirection => 0x06
  | .decodeError .badDataChecksum => 0x07
  | .decodeError .badPostamble => 0x08

/-- The terminal state an error ends in (R231, R236). -/
def Err.terminalState : Err → St
  | .timedOut _ => .timedOut
  | .invalidArgument _ | .ioError _ | .ackMismatch | .protocolError _ | .decodeError _ => .failed

/-- The values `status` may hold: 0x00 to 0x07 and 0xFF (R231: 0x08 to 0xFE are never written). -/
def statusLegal (b : Byte) : Bool := b.toNat ≤ 0x07 || b == statusNone

/-- The values `reason` may hold (R232). -/
def reasonLegal (b : Byte) : Bool := b.toNat ≤ 0x08

end Sys2Proof.Machine
end

