-- ==== Sys2Proof/Machine/Operands.lean ====
section
/-! DEFINITION. Operand forms: slices and bytes of a sequence (spec/00_scope.md R9), and what an operation's row in the plan
table says of its exchange (spec/41_session_fsm.md R142), read through the `op` register. -/

namespace Sys2Proof.Machine

/-- `B[i..j)`: bytes `i` up to but not including `j` (R9). -/
def slice (B : List Byte) (i j : Nat) : List Byte := (B.drop i).take (j - i)

/-- `B[i]` (R9). Every use stands after a test that `B` has a byte `i`; the 0 past the end is never read
(`checkFrame_append` and the length guards of Machine/Typed.lean). -/
def byteAt (B : List Byte) (i : Nat) : Byte := B.getD i 0

/-- What a session or typed operation sends and waits for: the first three columns of R142. The entry state follows from
the payload (R141 (4)). -/
structure Plan where
  payload : Option (List Byte)
  expLen : Nat
  timeout : Word
deriving DecidableEq, Repr

/-- The cell "after a good ack" of R142. -/
inductive AfterAck where
  | finish | pollResponse
deriving DecidableEq, Repr

/-- The cell "after ready in AwaitReadyRsp" of R142. -/
inductive AfterReady where
  | finish | readResponse
deriving DecidableEq, Repr

end Sys2Proof.Machine

namespace Sys2Proof

open Machine (St AfterAck AfterReady)

/-- R142, "after a good ack"; none for the operations that send nothing (n/a) and for the pure codec operations. -/
def Op.afterAck : Op → Option AfterAck
  | .sendCommand | .startPassiveDetection => some .finish
  | .transceive | .getFirmwareVersion | .configureSam => some .pollResponse
  | .waitReady | .readResponse | .readDetectedTarget => none
  | .encodeCommand | .genChecksum | .verifyAck | .decodeResponse | .checkFrame => none

/-- R142, "after ready in AwaitReadyRsp"; none where the table says n/a and for the pure codec operations. -/
def Op.afterReady : Op → Option AfterReady
  | .waitReady => some .finish
  | .transceive | .readResponse | .getFirmwareVersion | .configureSam | .readDetectedTarget => some .readResponse
  | .sendCommand | .startPassiveDetection => none
  | .encodeCommand | .genChecksum | .verifyAck | .decodeResponse | .checkFrame => none

/-- Does the operation send a frame (R142)? -/
def Op.sends (o : Op) : Bool := o.afterAck.isSome

/-- Is the operation a pure codec operation (R72, class column)? -/
def Op.pureCodec : Op → Bool
  | .encodeCommand | .genChecksum | .verifyAck | .decodeResponse | .checkFrame => true
  | .waitReady | .sendCommand | .transceive | .readResponse | .getFirmwareVersion | .configureSam
  | .startPassiveDetection | .readDetectedTarget => false

/-- Does the operation read a response (R142)? -/
def Op.readsResponse (o : Op) : Bool := o.afterReady == some .readResponse

/-- The operations that can be in progress in a session state (the transition table of spec/41_session_fsm.md R154 with
R142). In a quiescent state none is. -/
def Op.fitsState (o : Op) : St → Bool
  | .sending | .awaitReadyAck | .awaitAck => o.sends
  | .awaitReadyRsp => o.afterReady.isSome
  | .awaitRsp => o.readsResponse
  | .idle | .done | .timedOut | .failed => true

/-- The response lengths the typed operations fix (R142). -/
def Op.fixedExpLen : Op → Option Nat
  | .getFirmwareVersion => some 13
  | .configureSam => some 9
  | .readDetectedTarget => some 20
  | .waitReady | .sendCommand | .startPassiveDetection => some 0
  | .transceive | .readResponse => none
  | .encodeCommand | .genChecksum | .verifyAck | .decodeResponse | .checkFrame => none

end Sys2Proof
end

