-- ==== Sys2Proof/Machine/Frame.lean ====
section
/-! DEFINITION. The Frame Codec's functions (spec/40_codec.md): checksum generator, command serializer, ack validator,
response deserializer, frame checker. They are pure: no state, no I/O. -/

namespace Sys2Proof.Machine

/-- `sum8(S) = (Σ S[i]) mod 256` (spec/00_scope.md R10): the exact sum, narrowed at the end. -/
def sum8 (S : List Byte) : Byte := BitVec.ofNat 8 (S.map BitVec.toNat).sum

/-- `neg8(x) = (~x + 1) mod 256` (R10). -/
def neg8 (x : Byte) : Byte := ~~~x + 1

/-- The checksum function `csum(D) = neg8(sum8(D))` (spec/40_codec.md R101). -/
def csum (D : List Byte) : Byte := neg8 (sum8 D)

/-- The checksum check predicate (spec/40_codec.md R103): `(sum8(D) + c) mod 256 = 0`. -/
def csumOk (D : List Byte) (c : Byte) : Bool := sum8 D + c == 0

/-- Preamble, Start1, Start2 (spec/30_encoding.md R73). -/
def startCode : List Byte := [0x00, 0x00, 0xFF]

/-- Direction byte, host to device (R73). -/
def tfiCommand : Byte := 0xD4

/-- Direction byte, device to host (R76). -/
def tfiResponse : Byte := 0xD5

/-- Postamble (R73). -/
def postamble : Byte := 0x00

/-- The readiness byte that means "data available to read" (R77). -/
def readyByte : Byte := 0x01

/-- The ack constant (R75). -/
def ackFrame : List Byte := [0x00, 0x00, 0xFF, 0x00, 0xFF, 0x00]

/-- How many bytes an ack read takes: a readiness byte and the ack (R75). -/
def ackReadLength : Nat := 7

/-- A frame of the shape of R73 and R76: direction byte `t` and data field `D`. -/
def frameOf (t : Byte) (D : List Byte) : List Byte :=
  startCode ++ [BitVec.ofNat 8 (D.length + 1), csum [BitVec.ofNat 8 (D.length + 1)], t] ++ D ++ [csum (t :: D), postamble]

/-- `encodeCommand(P)` (spec/40_codec.md R105), with the parameter `MAX_PAYLOAD`. -/
def encodeFrame (maxPayload : Nat) (P : List Byte) : Except ArgReason (List Byte) :=
  if P.length = 0 then .error .payloadEmpty
  else if P.length > maxPayload then .error .payloadTooLong
  else .ok (frameOf tfiCommand P)

/-- `verifyAck(B)` for a 7-byte `B` (spec/40_codec.md R110): bytes 1 to 6 against the constant; byte 0 is never read. -/
def ackMatches (B : List Byte) : Bool := slice B 1 7 == ackFrame

/-- `checkFrame(F, t)` (spec/40_codec.md R120): the checks in the rule's order, the first that fails gives the result.
Each test reads only bytes an earlier test proved present (spec/92_eei_decisions.md D46). -/
def frameCheck (F : List Byte) (t : Byte) : Except DecodeReason Unit :=
  let m := F.length
  if m < 5 then .error .truncated
  else if slice F 0 3 ≠ startCode then .error .badStartCode
  else
    let L := (byteAt F 3).toNat
    if byteAt F 3 + byteAt F 4 ≠ 0 then .error .badLengthChecksum
    else if L = 0 then .error .badLength
    else if m < L + 7 then .error .truncated
    else if byteAt F 5 ≠ t then .error .badDirection
    else if sum8 (slice F 5 (5 + L)) + byteAt F (5 + L) ≠ 0 then .error .badDataChecksum
    else if byteAt F (6 + L) ≠ postamble then .error .badPostamble
    else .ok ()

/-- `decodeResponse(B, n)` (spec/40_codec.md R115), with the parameter `VERIFY_RSP_CHECKSUM`. -/
def unframeResponse (verify : Bool) (B : List Byte) (n : Nat) : Except DecodeReason (List Byte) :=
  if B.length ≠ n + 1 then .error .lengthMismatch
  else if verify then
    match frameCheck (slice B 1 (n + 1)) tfiResponse with
    | .ok () => .ok (slice B 1 (n + 1))
    | .error r => .error r
  else .ok (slice B 1 (n + 1))

end Sys2Proof.Machine
end

