-- ==== Sys2Proof/Machine/Ops.lean ====
section
/-! DEFINITION. The operations every meaning is built from: buffers, the Transport Port, `raise` and `finish` (how an
exchange ends: the block's exception entry, spec/60_exceptions.md R236, R237) and acceptance (how a terminal state is left:
its exception return, R240, spec/41_session_fsm.md R141). -/

namespace Sys2Proof.Machine

/-! ### Buffers (spec/20_memory.md R52) -/

/-- The byte at an index; none if it holds no value (spec/10_state.md R28). -/
def Memory.get : Memory → Nat → Option Byte
  | [], _ => none
  | (a, b) :: rest, i => if a = i then some b else Memory.get rest i

/-- Write one byte, keeping the indices strictly rising. -/
def Memory.set : Memory → Nat → Byte → Memory
  | [], i, v => [(i, v)]
  | (a, b) :: rest, i, v =>
    if i < a then (i, v) :: (a, b) :: rest
    else if i = a then (i, v) :: rest
    else (a, b) :: Memory.set rest i v

/-- Write consecutive bytes from an index on. -/
def Memory.setAll : Memory → Nat → List Byte → Memory
  | m, _, [] => m
  | m, i, v :: vs => Memory.setAll (Memory.set m i v) (i + 1) vs

/-- Read `n` consecutive bytes from an index on; none if one of them holds no value. -/
def Memory.getAll (m : Memory) (a : Nat) : Nat → Option (List Byte)
  | 0 => some []
  | n + 1 =>
    match Memory.get m a, Memory.getAll m (a + 1) n with
    | some b, some bs => some (b :: bs)
    | _, _ => none

/-- The canonical form: indices strictly rising. No entry can equal what an unlisted index reads as, which is no value. -/
abbrev Memory.wf (m : Memory) : Prop := m.Pairwise (fun c d => c.1 < d.1)

/-- `MemRead(buf, a, n)` of a buffer of capacity `cap` (R52, spec/10_state.md R28). -/
def memRead (m : Memory) (cap a n : Nat) : Except Fault (List Byte) :=
  if a + n > cap then .error .bufferOverrun
  else
    match Memory.getAll m a n with
    | some bs => .ok bs
    | none => .error .noValue

/-- `MemWrite(buf, a, n, v)` to a buffer of capacity `cap` (R52); `n` is the number of bytes in `v`. -/
def memWrite (m : Memory) (cap a : Nat) (v : List Byte) : Except Fault Memory :=
  if a + v.length > cap then .error .bufferOverrun else .ok (Memory.setAll m a v)

/-! ### How an exchange ends -/

/-- The result fields a `finish` names (spec/60_exceptions.md R237); the others keep their values. -/
structure Results where
  flag : Option Bool := none
  word : Option Word := none
  bytes : Option (List Byte) := none
deriving DecidableEq, Repr

/-- `raise E(r)` (R236): the triple is written and the terminal state entered; every other register keeps its value. -/
def State.raise (e : Err) (s : State) : State :=
  { s with
    status := e.status
    reason := e.reason
    failState := if s.st.quiescent then .idle else s.st
    st := e.terminalState }

/-- The part of `finish` that is not the byte-sequence result (R237). -/
def State.finishWord (o : Success) (r : Results) (s : State) : State :=
  { s with
    status := o.status
    reason := 0x00
    failState := .idle
    resFlag := r.flag.getD s.resFlag
    resWord := r.word.getD s.resWord
    st := .done }

/-- Write the byte-sequence result: `res_len` and `res_bytes[0..res_len)`. -/
def State.withResultBytes (m : Memory) (n : Nat) (s : State) : State := { s with resBytes := m, resLen := n }

/-- `finish(s, results)` (R237). -/
def State.finish (o : Success) (r : Results) (s : State) : Result :=
  match r.bytes with
  | none => .next (s.finishWord o r)
  | some bs =>
    match memWrite s.resBytes s.cfg.rxMaxFrame 0 bs with
    | .ok m => .next ((s.finishWord o r).withResultBytes m bs.length)
    | .error f => .fault f

/-! ### The Transport Port and the timer (spec/20_memory.md R55, R56; spec/60_exceptions.md R244) -/

/-- Append an event to the history (spec/41_session_fsm.md R160). -/
def State.log (e : Event) (s : State) : State := { s with history := s.history ++ [e] }

/-- Can the port give this answer to a `PortWrite` (R55)? -/
def PortAnswer.fitsWrite : PortAnswer → Bool
  | .ioError | .writeOk => true
  | .readOk _ => false

/-- Can the port give this answer to a `PortRead(n)` (R55)? -/
def PortAnswer.fitsRead (n : Nat) : PortAnswer → Bool
  | .ioError => true
  | .readOk bytes => bytes.length == n
  | .writeOk => false

/-- A free answer to a `PortWrite`: `Ok` or `IoError`, not said which (R56, log 2). -/
def freeWriteAnswer (k : Nat) : PortAnswer := if Config.freeAnswerOk k then .writeOk else .ioError

/-- A free answer to a `PortRead(n)`: `IoError`, or `Ok` with any `n` bytes (R56, log 2). -/
def freeReadAnswer (n k : Nat) : PortAnswer :=
  if Config.freeAnswerOk k then .readOk ((List.range n).map (Config.freeAnswerByte k)) else .ioError

/-- The transport's next answer: the script's, if it names one the port can give to this call, else a free one (log 2, 3). -/
def State.nextAnswer (fits : PortAnswer → Bool) (free : Nat → PortAnswer) (s : State) : PortAnswer × State :=
  match s.transport with
  | [] => (free s.oracleCalls, { s with oracleCalls := s.oracleCalls + 1 })
  | a :: rest =>
    if fits a then (a, { s with transport := rest })
    else (free s.oracleCalls, { s with transport := rest, oracleCalls := s.oracleCalls + 1 })

/-- `PortWrite(B)` to `PEER_ADDR`, with its event (spec/00_scope.md R12). -/
def State.portWrite (B : List Byte) (s : State) : PortAnswer × State :=
  let (a, t) := s.nextAnswer PortAnswer.fitsWrite freeWriteAnswer
  (a, t.log (.write s.cfg.peerAddr B a))

/-- `PortRead(n)` from `PEER_ADDR`, with its event (R12). -/
def State.portRead (n : Nat) (s : State) : PortAnswer × State :=
  let (a, t) := s.nextAnswer (PortAnswer.fitsRead n) (freeReadAnswer n)
  (a, t.log (.read s.cfg.peerAddr n a))

/-- The `Sleep(P)` of a poll loop: the timer completes it, `elapsed` counts it (R244, spec/41_session_fsm.md R145). -/
def State.sleepOnce (s : State) : State :=
  { s.log (.sleep s.cfg.pollInterval) with elapsed := s.elapsed + s.cfg.pollInterval }

/-- Poll-loop entry: `elapsed <- 0` on every entry from another state (spec/41_session_fsm.md R143). -/
def State.enterPoll (t : St) (s : State) : State := { s with elapsed := 0, st := t }

/-! ### Acceptance (spec/41_session_fsm.md R141) -/

/-- Part (1) of acceptance: nothing survives from the previous exchange. -/
def State.clearForAccept (op : Byte) (s : State) : State :=
  { s with
    op := op
    status := statusNone
    reason := 0x00
    failState := .idle
    resFlag := false
    resWord := 0
    resLen := 0
    resBytes := []
    timeout := 0
    elapsed := 0
    expLen := 0
    txlen := 0
    rxlen := 0
    txbuf := []
    rxbuf := [] }

/-- A request presented while busy: the sticky mark and no transition (spec/20_memory.md R62, log 5). -/
def State.markConcurrent (s : State) : State := { s with concurrent := true }

/-- Presenting a request: accepted when quiescent (spec/41_session_fsm.md R140), refused with the mark while busy (R62). -/
def present (op : Byte) (body : State → Result) (s : State) : Result :=
  if s.st.quiescent then body (s.clearForAccept op) else .next s.markConcurrent

/-- Parts (1) and (2) of acceptance for an operation of the table, then `body`. `data` and `expLen` are the request's, given
only for an operation that reads them (spec/30_encoding.md R70). -/
def accept (o : Op) (data : Option (List Byte)) (expLen : Option Half) (body : State → Result) (s : State) : Result :=
  present o.code
    (fun c =>
      if c.cfg.rxCap < (data.getD []).length then .next (c.raise (.invalidArgument .dataTooLong))
      else if c.cfg.rxMaxFrame < (expLen.getD 0).toNat then .next (c.raise (.invalidArgument .expLenTooLarge))
      else body c)
    s

/-- Acceptance of a request whose `opsel` is reserved (part (2), first check; spec/30_encoding.md R72). -/
def acceptReserved (op : Byte) (s : State) : Result :=
  present op (fun c => .next (c.raise (.invalidArgument .unknownOperation))) s

/-- `timeout` and `exp_len` take the plan's values (part (4)). -/
def State.latchBudget (p : Plan) (s : State) : State := { s with timeout := p.timeout, expLen := p.expLen }

/-- The encoded frame goes to `txbuf` and the session to `Sending` (part (4)). -/
def State.loadFrame (m : Memory) (n : Nat) (s : State) : State := { s with txbuf := m, txlen := n, st := .sending }

/-- Part (4) of acceptance: latch the plan. -/
def latchPlan (p : Plan) (c : State) : Result :=
  let s := c.latchBudget p
  match p.payload with
  | none => .next (s.enterPoll .awaitReadyRsp)
  | some P =>
    match encodeFrame s.cfg.maxPayload P with
    | .error x => .next (s.raise (.invalidArgument x))
    | .ok F =>
      match memWrite s.txbuf s.cfg.maxCmdFrame 0 F with
      | .ok m => .next (s.loadFrame m F.length)
      | .error f => .fault f

/-! ### Ranges, reset, and what the caller reads -/

/-- The registers of the table of spec/10_state.md R23 are in their legal ranges (R24). -/
def State.regsLegal (s : State) : Bool :=
  s.expLen ≤ s.cfg.rxMaxFrame && s.txlen ≤ s.cfg.maxCmdFrame && s.rxlen ≤ s.cfg.rxCap && s.resLen ≤ s.cfg.rxMaxFrame
    && statusLegal s.status && reasonLegal s.reason

/-- A reset of the block at any moment (spec/70_reset_and_hazards.md R261): the state of R260. The instance's parameters, the
agents around the block and the sticky verdict are no part of what it resets (log 18). -/
def State.resetBlock (s : State) : State :=
  { State.resetWith s.cfg with
    concurrent := s.concurrent
    caller := s.caller
    transport := s.transport
    oracleCalls := s.oracleCalls }

/-- The result record the block presents (spec/30_encoding.md R83). -/
structure ResultRecord where
  status : Byte
  reason : Byte
  failState : St
  resFlag : Bool
  resWord : Word
  resLen : Nat
  resBytes : List Byte
deriving DecidableEq, Repr

/-- What the caller reads: the result record when `st` is quiescent, nothing while busy (R83, spec/10_state.md R23). -/
def State.resultRecord (s : State) : Option ResultRecord :=
  if s.st.quiescent then
    (Memory.getAll s.resBytes 0 s.resLen).map (fun bytes =>
      { status := s.status, reason := s.reason, failState := s.failState, resFlag := s.resFlag, resWord := s.resWord
        resLen := s.resLen, resBytes := bytes })
  else none

/-- The diagnostic bytes `rxbuf[0..rxlen)` the caller reads when `st` is quiescent (spec/60_exceptions.md R233). -/
def State.diagnosticBytes (s : State) : Option (List Byte) :=
  if s.st.quiescent then Memory.getAll s.rxbuf 0 s.rxlen else none

end Sys2Proof.Machine
end

