-- ==== Sys2Proof/Machine/Codec.lean ====
section
/-! DEFINITION. The pure codec operations (spec/40_codec.md R100 to R121): performed within the accepting step. -/

namespace Sys2Proof.Machine

/-- 0x01 `ENCODE_COMMAND` (R106). -/
def execEncodeCommand (data : List Byte) (s : State) : Result :=
  accept .encodeCommand (some data) none
    (fun c =>
      match encodeFrame c.cfg.maxPayload data with
      | .error x => .next (c.raise (.invalidArgument x))
      | .ok F => c.finish .ok { bytes := some F })
    s

/-- 0x02 `GEN_CHECKSUM` (R102). -/
def execGenChecksum (data : List Byte) (s : State) : Result :=
  accept .genChecksum (some data) none
    (fun c => c.finish .ok { word := some ((csum data).zeroExtend 32), bytes := some [csum data] })
    s

/-- 0x03 `VERIFY_ACK` (R111). -/
def execVerifyAck (data : List Byte) (s : State) : Result :=
  accept .verifyAck (some data) none
    (fun c =>
      if data.length ≠ ackReadLength then .next (c.raise (.invalidArgument .badAckLength))
      else c.finish .ok { flag := some (ackMatches data) })
    s

/-- 0x04 `DECODE_RESPONSE` (R116). -/
def execDecodeResponse (data : List Byte) (expLen : Half) (s : State) : Result :=
  accept .decodeResponse (some data) (some expLen)
    (fun c =>
      match unframeResponse c.cfg.verifyRspChecksum data expLen.toNat with
      | .error x => .next (c.raise (.decodeError x))
      | .ok d => c.finish .ok { bytes := some d })
    s

/-- 0x05 `CHECK_FRAME` (R121). -/
def execCheckFrame (data : List Byte) (tfi : Byte) (s : State) : Result :=
  accept .checkFrame (some data) none
    (fun c =>
      match frameCheck data tfi with
      | .error x => .next (c.raise (.decodeError x))
      | .ok () => c.finish .ok { flag := some true, word := some ((byteAt data 3).zeroExtend 32) })
    s

end Sys2Proof.Machine
end

