-- ==== Sys2Proof/Machine/Typed.lean ====
section
/-! DEFINITION. The typed operations (spec/42_typed_operations.md): what each sends and waits for, and how it interprets the
decoded response `d`. An interpretation of a response whose length is not the plan's is a pair that cannot occur
(spec/41_session_fsm.md R154): it faults (log 19). -/

namespace Sys2Proof.Machine

/-- The one payload byte of `GET_FIRMWARE_VERSION` (R190). -/
def firmwareCommand : Byte := 0x02

/-- Response lengths (R190, R195, R205). -/
def firmwareLength : Nat := 13
def samLength : Nat := 9
def detectLength : Nat := 20

/-- `FW_HDR` (R191). -/
def firmwareHeader : List Byte := [0x00, 0x00, 0xFF, 0x06, 0xFA, 0xD5]

/-- The count byte that means one target (R205), and the max-targets byte of the detection command (R200). -/
def oneTarget : Byte := 0x01

/-- The payload of `START_PASSIVE_DETECTION`: `[CMD_INLIST, 0x01, brty]` (R200, log 21). -/
def detectionPayload (p : Config.Params) (brty : Byte) : List Byte := [p.cmdInlist, oneTarget, brty]

/-- Firmware-version packing, big-endian (R192, spec/20_memory.md R51). -/
def packVersion (chip major minor build : Byte) : Word :=
  (chip.zeroExtend 32 <<< 24) ||| (major.zeroExtend 32 <<< 16) ||| (minor.zeroExtend 32 <<< 8) ||| build.zeroExtend 32

/-- 0x20 `GET_FIRMWARE_VERSION`, acceptance (R190, spec/41_session_fsm.md R142). -/
def execGetFirmwareVersion (timeout : Word) (s : State) : Result :=
  accept .getFirmwareVersion none none
    (latchPlan { payload := some [firmwareCommand], expLen := firmwareLength, timeout := timeout }) s

/-- 0x21 `CONFIGURE_SAM`, acceptance (R195, R142). -/
def execConfigureSam (s : State) : Result :=
  accept .configureSam none none
    (fun c =>
      latchPlan { payload := some c.cfg.samPayload.toList, expLen := samLength, timeout := c.cfg.defaultTimeout } c)
    s

/-- 0x22 `START_PASSIVE_DETECTION`, acceptance (R200, R142). `brty` is sent verbatim (R201). -/
def execStartPassiveDetection (brty : Byte) (s : State) : Result :=
  accept .startPassiveDetection none none
    (fun c =>
      latchPlan { payload := some (detectionPayload c.cfg brty), expLen := 0, timeout := c.cfg.defaultTimeout } c)
    s

/-- 0x23 `READ_DETECTED_TARGET`, acceptance (R205, R142). -/
def execReadDetectedTarget (timeout : Word) (s : State) : Result :=
  accept .readDetectedTarget none none
    (latchPlan { payload := none, expLen := detectLength, timeout := timeout }) s

/-- Interpretation of the firmware response (R190). -/
def interpretFirmware (d : List Byte) (s : State) : Result :=
  if d.length ≠ firmwareLength then .fault .badState
  else if slice d 0 6 ≠ firmwareHeader then .next (s.raise (.protocolError .unexpectedHeader))
  else
    s.finish .ok
      { word := some (packVersion (byteAt d 7) (byteAt d 8) (byteAt d 9) (byteAt d 10)), bytes := some (slice d 7 11) }

/-- Interpretation of the SAM response (R195). -/
def interpretSam (d : List Byte) (s : State) : Result :=
  if d.length ≠ samLength then .fault .badState
  else if byteAt d s.cfg.samOkOffset ≠ s.cfg.samOkMarker then .next (s.raise (.protocolError .configRejected))
  else s.finish .ok {}

/-- Interpretation of the detection response (R205 to R207). -/
def interpretTarget (d : List Byte) (s : State) : Result :=
  if d.length ≠ detectLength then .fault .badState
  else if byteAt d s.cfg.nbtgOffset ≠ oneTarget then s.finish .notFound {}
  else
    let u := (byteAt d s.cfg.uidLenOffset).toNat
    if s.cfg.uidOffset + u > detectLength then .next (s.raise (.protocolError .uidOverrun))
    else s.finish .ok { bytes := some (slice d s.cfg.uidOffset (s.cfg.uidOffset + u)) }

end Sys2Proof.Machine
end

