-- ==== Sys2Proof/Machine/Session.lean ====
section
/-! DEFINITION. The Device Session (spec/41_session_fsm.md): acceptance of the session operations, and one step of the
session in each busy state. -/

namespace Sys2Proof.Machine

/-- 0x10 `WAIT_READY`, acceptance (R155, R142). -/
def execWaitReady (timeout : Word) (s : State) : Result :=
  accept .waitReady none none (latchPlan { payload := none, expLen := 0, timeout := timeout }) s

/-- 0x11 `SEND_COMMAND`, acceptance (R156, R142). -/
def execSendCommand (data : List Byte) (timeout : Word) (s : State) : Result :=
  accept .sendCommand (some data) none (latchPlan { payload := some data, expLen := 0, timeout := timeout }) s

/-- 0x12 `TRANSCEIVE`, acceptance (R157, R142). -/
def execTransceive (data : List Byte) (expLen : Half) (timeout : Word) (s : State) : Result :=
  accept .transceive (some data) (some expLen)
    (latchPlan { payload := some data, expLen := expLen.toNat, timeout := timeout }) s

/-- 0x13 `READ_RESPONSE`, acceptance (R158, R142). -/
def execReadResponse (expLen : Half) (timeout : Word) (s : State) : Result :=
  accept .readResponse none (some expLen)
    (latchPlan { payload := none, expLen := expLen.toNat, timeout := timeout }) s

/-- Step in `Sending` (R144). -/
def stepSending (s : State) : Result :=
  match memRead s.txbuf s.cfg.maxCmdFrame 0 s.txlen with
  | .error f => .fault f
  | .ok B =>
    match s.portWrite B with
    | (.ioError, t) => .next (t.raise (.ioError .writeFailed))
    | (_, t) => .next (t.enterPoll .awaitReadyAck)

/-- The ready branch of a poll step (R145, R142). -/
def pollReady (s : State) : Result :=
  match s.st with
  | .awaitReadyAck => .next { s with st := .awaitAck }
  | .awaitReadyRsp =>
    match (Op.ofCode s.op).bind Op.afterReady with
    | some .finish => s.finish .ok {}
    | some .readResponse => .next { s with st := .awaitRsp }
    | none => .fault .badState
  | .idle | .sending | .awaitAck | .awaitRsp | .done | .timedOut | .failed => .fault .badState

/-- Which loop timed out (R145). -/
def pollTimeoutReason (t : St) : TimeoutReason := if t = .awaitReadyAck then .forAck else .forResponse

/-- Step in `AwaitReadyAck` or `AwaitReadyRsp`: one readiness poll (R145). The ready test comes before the timeout test. -/
def stepPoll (s : State) : Result :=
  match s.portRead 1 with
  | (.readOk r, t) =>
    if r = [readyByte] then pollReady t
    else if t.elapsed ≥ t.timeout.toNat then .next (t.raise (.timedOut (pollTimeoutReason t.st)))
    else .next t.sleepOnce
  | (_, t) => .next (t.raise (.ioError .readyReadFailed))

/-- `rxbuf[0..n) <- R ; rxlen <- n` (spec/10_state.md R27). Indices past `n` keep their bytes (log 10). -/
def State.storeRead (m : Memory) (n : Nat) (s : State) : State := { s with rxbuf := m, rxlen := n }

/-- After a good ack (R148, R142). -/
def ackGood (s : State) : Result :=
  match (Op.ofCode s.op).bind Op.afterAck with
  | some .finish => s.finish .ok {}
  | some .pollResponse => .next (s.enterPoll .awaitReadyRsp)
  | none => .fault .badState

/-- Step in `AwaitAck` (R148). -/
def stepAck (s : State) : Result :=
  match s.portRead ackReadLength with
  | (.readOk R, t) =>
    match memWrite t.rxbuf t.cfg.rxCap 0 R with
    | .error f => .fault f
    | .ok m =>
      if ackMatches R then ackGood (t.storeRead m R.length) else .next ((t.storeRead m R.length).raise .ackMismatch)
  | (_, t) => .next (t.raise (.ioError .ackReadFailed))

/-- Interpretation of the decoded response, by `op` (R150, last column of R142). -/
def interpret (d : List Byte) (s : State) : Result :=
  match Op.ofCode s.op with
  | some .transceive | some .readResponse => s.finish .ok { bytes := some d }
  | some .getFirmwareVersion => interpretFirmware d s
  | some .configureSam => interpretSam d s
  | some .readDetectedTarget => interpretTarget d s
  | some .waitReady | some .sendCommand | some .startPassiveDetection | some .encodeCommand | some .genChecksum
  | some .verifyAck | some .decodeResponse | some .checkFrame | none => .fault .badState

/-- Step in `AwaitRsp` (R149). -/
def stepResponse (s : State) : Result :=
  match s.portRead (s.expLen + 1) with
  | (.readOk R, t) =>
    match memWrite t.rxbuf t.cfg.rxCap 0 R with
    | .error f => .fault f
    | .ok m =>
      let u := t.storeRead m R.length
      match unframeResponse u.cfg.verifyRspChecksum R u.expLen with
      | .error x => .next (u.raise (.decodeError x))
      | .ok d => interpret d u
  | (_, t) => .next (t.raise (.ioError .rspReadFailed))

/-- Does the operation in `op` go with the session state (R154)? -/
def State.opFits (s : State) : Bool :=
  s.st.quiescent || (Op.ofCode s.op).any (fun o => o.fitsState s.st)

/-- One step of the session (R154). Quiescent states have none: the session waits (R151, log 6). -/
def sessionStep (s : State) : Result :=
  if s.opFits then
    match s.st with
    | .idle | .done | .timedOut | .failed => .next s
    | .sending => stepSending s
    | .awaitReadyAck | .awaitReadyRsp => stepPoll s
    | .awaitAck => stepAck s
    | .awaitRsp => stepResponse s
  else .fault .badState

end Sys2Proof.Machine
end

