-- ==== Sys2Proof/Machine/Dispatch.lean ====
section
/-! DEFINITION. What presenting an operation does (spec/41_session_fsm.md R140, R141; spec/20_memory.md R62). A pure codec
operation is whole here; a session or typed operation is accepted here and goes on in `sessionStep` (log 23). -/

namespace Sys2Proof.Machine

def exec (i : Instr) (s : State) : Host.Outcome State Fault Refusal :=
  match i with
  | .encodeCommand data => Sys2Proof.Machine.execEncodeCommand data s
  | .genChecksum data => Sys2Proof.Machine.execGenChecksum data s
  | .verifyAck data => Sys2Proof.Machine.execVerifyAck data s
  | .decodeResponse data expLen => Sys2Proof.Machine.execDecodeResponse data expLen s
  | .checkFrame data tfi => Sys2Proof.Machine.execCheckFrame data tfi s
  | .waitReady timeout => Sys2Proof.Machine.execWaitReady timeout s
  | .sendCommand data timeout => Sys2Proof.Machine.execSendCommand data timeout s
  | .transceive data expLen timeout => Sys2Proof.Machine.execTransceive data expLen timeout s
  | .readResponse expLen timeout => Sys2Proof.Machine.execReadResponse expLen timeout s
  | .getFirmwareVersion timeout => Sys2Proof.Machine.execGetFirmwareVersion timeout s
  | .configureSam => Sys2Proof.Machine.execConfigureSam s
  | .startPassiveDetection brty => Sys2Proof.Machine.execStartPassiveDetection brty s
  | .readDetectedTarget timeout => Sys2Proof.Machine.execReadDetectedTarget timeout s

end Sys2Proof.Machine
end

