-- ==== Sys2Proof/Machine/Step.lean ====
section
/-! DEFINITION. One step of the machine: the caller's next act, or one step of the session. -/

namespace Sys2Proof.Machine

/-- A request reaches the block: it is decoded and executed; a reserved `opsel` is accepted into `Failed` (R72, R141). -/
def presentRequest (r : Request) (s : State) : Result :=
  match decode r with
  | .ok i => exec i s
  | .error (.reservedOpsel op) => acceptReserved op s

/-- The caller's schedule after its first act. -/
def State.withCaller (acts : List CallerAct) (s : State) : State := { s with caller := acts }

/-- One act of the caller, or one session step where the caller has none (log 4). -/
def stepLegal (s : State) : Result :=
  match s.caller with
  | [] => sessionStep s
  | .pass :: rest => sessionStep (s.withCaller rest)
  | .reset :: rest => .next (s.withCaller rest).resetBlock
  | .present r :: rest => presentRequest r (s.withCaller rest)
  | .call r :: rest => if s.st.quiescent then presentRequest r (s.withCaller rest) else sessionStep s

/-- One step. Outside the legal parameters the machine has no meaning (spec/70_reset_and_hazards.md R262, log 8); a register
outside its legal range is the fault `BadState` (spec/10_state.md R24, log 7). -/
def step (s : State) : Host.Outcome State Fault Refusal :=
  if ¬ s.cfg.Legal then .refused .illegalParameters
  else if s.regsLegal then stepLegal s
  else .fault .badState

/-- `s` with the request whose table word is `w` put where the block takes its next request from: first in the caller's
schedule, presented at the very next step (log 16). A word of more than 8 bits names no request. -/
def State.withFetchWord (s : State) (nbits w : Nat) : State :=
  if 0 < nbits ∧ w < 256 then { s with caller := .present (requestOfTableWord w) :: s.caller } else s

end Sys2Proof.Machine
end

