-- ==== Sys2Proof/Machine/RequestText.lean ====
section
/-! DEFINITION. The textual request syntax (spec/30_encoding.md R82): a request written as text, read into the request
record it stands for. The machine takes records; this is the notation of spec/95_test_vectors.md and of test programs. -/

namespace Sys2Proof.Machine

/-- A mnemonic, a field name or a numeral is a word; the four signs of the grammar stand alone. -/
inductive Token where
  | word (w : List Char)
  | equals | opening | closing | comma
deriving DecidableEq, Repr

/-- Why a text is no request (R82). -/
inductive TextReject where
  /-- No mnemonic first, or a field not of the form name, "=", value. -/
  | malformed
  /-- The first word is no mnemonic of R72. -/
  | unknownMnemonic
  /-- A name that is none of the five fields. -/
  | unknownField
  /-- A field given twice (log 17). -/
  | repeatedField
  /-- A value that is not of the field's kind, or past its width (log 17). -/
  | badValue
deriving DecidableEq, Repr

/-- End the word read so far, if there is one. Its letters were collected last first. -/
def closeWord (w : List Char) (ts : List Token) : List Token := if w.isEmpty then ts else .word w.reverse :: ts

/-- Cut a text into tokens; white space separates and is otherwise ignored (log 17). -/
def tokens : List Char → List Char → List Token
  | w, [] => closeWord w []
  | w, c :: cs =>
    if c = '=' then closeWord w (.equals :: tokens [] cs)
    else if c = '[' then closeWord w (.opening :: tokens [] cs)
    else if c = ']' then closeWord w (.closing :: tokens [] cs)
    else if c = ',' then closeWord w (.comma :: tokens [] cs)
    else if c.isWhitespace then closeWord w (tokens [] cs)
    else tokens (c :: w) cs

/-- A decimal digit. -/
def decimalDigit (c : Char) : Option Nat :=
  if '0'.toNat ≤ c.toNat ∧ c.toNat ≤ '9'.toNat then some (c.toNat - '0'.toNat) else none

/-- A hexadecimal digit, in either case. -/
def hexDigit (c : Char) : Option Nat :=
  if 'A'.toNat ≤ c.toNat ∧ c.toNat ≤ 'F'.toNat then some (c.toNat - 'A'.toNat + 10)
  else if 'a'.toNat ≤ c.toNat ∧ c.toNat ≤ 'f'.toNat then some (c.toNat - 'a'.toNat + 10)
  else decimalDigit c

/-- `0xNN`: exactly two hexadecimal digits. -/
def hexByte : List Char → Option Nat
  | ['0', 'x', a, b] => (hexDigit a).bind (fun h => (hexDigit b).map (fun l => 16 * h + l))
  | _ => none

/-- A decimal numeral, its digits read from the left onto `acc`. -/
def decimalFrom : Nat → List Char → Option Nat
  | acc, [] => some acc
  | acc, c :: cs => (decimalDigit c).bind (fun d => decimalFrom (10 * acc + d) cs)

/-- `decimal | 0xNN`. -/
def numeral (w : List Char) : Option Nat :=
  match hexByte w with
  | some n => some n
  | none => if w.isEmpty then none else decimalFrom 0 w

/-- `0xNN { "," 0xNN } "]"`, and what follows it. -/
def byteList : List Token → Option (List Byte × List Token)
  | .word w :: .closing :: rest => (hexByte w).map (fun n => ([BitVec.ofNat 8 n], rest))
  | .word w :: .comma :: rest =>
    (hexByte w).bind (fun n => (byteList rest).map (fun r => (BitVec.ofNat 8 n :: r.1, r.2)))
  | _ => none

/-- A value of the grammar. -/
inductive Value where
  | bytes (bs : List Byte)
  | number (n : Nat)
deriving DecidableEq, Repr

/-- Read a value, and give what follows it. -/
def readValue : List Token → Option (Value × List Token)
  | .opening :: .closing :: rest => some (.bytes [], rest)
  | .opening :: rest => (byteList rest).map (fun r => (.bytes r.1, r.2))
  | .word w :: rest => (numeral w).map (fun n => (.number n, rest))
  | _ => none

/-- The mnemonic of a table row (R72). -/
def opMnemonic : Op → String
  | .encodeCommand => "ENCODE_COMMAND"
  | .genChecksum => "GEN_CHECKSUM"
  | .verifyAck => "VERIFY_ACK"
  | .decodeResponse => "DECODE_RESPONSE"
  | .checkFrame => "CHECK_FRAME"
  | .waitReady => "WAIT_READY"
  | .sendCommand => "SEND_COMMAND"
  | .transceive => "TRANSCEIVE"
  | .readResponse => "READ_RESPONSE"
  | .getFirmwareVersion => "GET_FIRMWARE_VERSION"
  | .configureSam => "CONFIGURE_SAM"
  | .startPassiveDetection => "START_PASSIVE_DETECTION"
  | .readDetectedTarget => "READ_DETECTED_TARGET"

/-- Give one field of the record its value, if the value is of the field's kind and within its width (R70). -/
def setField (r : Request) (name : List Char) (v : Value) : Except TextReject Request :=
  if name = "data".toList then
    match v with
    | .bytes bs => .ok { r with data := bs }
    | .number _ => .error .badValue
  else
    match v with
    | .bytes _ => .error .badValue
    | .number n =>
      if name = "exp_len".toList then
        if n < 2 ^ 16 then .ok { r with expLen := BitVec.ofNat 16 n } else .error .badValue
      else if name = "timeout".toList then
        if n < 2 ^ 32 then .ok { r with timeout := BitVec.ofNat 32 n } else .error .badValue
      else if name = "tfi".toList then
        if n < 2 ^ 8 then .ok { r with tfi := BitVec.ofNat 8 n } else .error .badValue
      else if name = "brty".toList then
        if n < 2 ^ 8 then .ok { r with brty := BitVec.ofNat 8 n } else .error .badValue
      else .error .unknownField

/-- The five field names (R82). -/
def fieldNames : List (List Char) :=
  ["data".toList, "exp_len".toList, "timeout".toList, "tfi".toList, "brty".toList]

/-- `{ field "=" value }`. `fuel` bounds the number of fields; `seen` holds the names already given. -/
def readFields : Nat → List (List Char) → Request → List Token → Except TextReject Request
  | _, _, r, [] => .ok r
  | 0, _, _, _ :: _ => .error .malformed
  | fuel + 1, seen, r, .word name :: .equals :: rest =>
    if !fieldNames.contains name then .error .unknownField
    else if seen.contains name then .error .repeatedField
    else
      match readValue rest with
      | none => .error .badValue
      | some (v, rest') =>
        match setField r name v with
        | .error e => .error e
        | .ok r' => readFields fuel (name :: seen) r' rest'
  | _ + 1, _, _, _ :: _ => .error .malformed

/-- `request := MNEMONIC { field "=" value }`; a field left out keeps its default (R82). -/
def readRequest (text : String) : Except TextReject Request :=
  match tokens [] text.toList with
  | .word m :: rest =>
    match Op.all.find? (fun o => (opMnemonic o).toList == m) with
    | some o => readFields rest.length [] { opsel := o.code } rest
    | none => .error .unknownMnemonic
  | _ => .error .malformed

end Sys2Proof.Machine
end

