-- ==== Sys2Proof/WellFormed.lean ====
section
/-! DEFINITION. Which operations are in contract: those whose acceptance raises no `InvalidArgument`
(spec/41_session_fsm.md R141 (2) and (4), spec/60_exceptions.md R232). An ill-formed one still decodes and still executes:
its acceptance ends in `Failed`. -/

namespace Sys2Proof

open Config (Params)

/-- The `data` of an operation that reads it fits the receive buffer (R141, `DataTooLong`). -/
def dataFits (p : Params) (data : List Byte) : Bool := data.length ≤ p.rxCap

/-- The `exp_len` of an operation that reads it fits a frame (R141, `ExpLenTooLarge`). -/
def expLenFits (p : Params) (expLen : Half) : Bool := expLen.toNat ≤ p.rxMaxFrame

/-- A command payload is not empty (spec/40_codec.md R105, `PayloadEmpty`). -/
def payloadPresent (payload : List Byte) : Bool := !payload.isEmpty

/-- A command payload is at most `MAX_PAYLOAD` bytes (spec/40_codec.md R105, `PayloadTooLong`). -/
def payloadFits (p : Params) (payload : List Byte) : Bool := payload.length ≤ p.maxPayload

/-- The buffer `verifyAck` takes has 7 bytes (spec/40_codec.md R111, `BadAckLength`). -/
def ackLengthRight (data : List Byte) : Bool := data.length == 7

/-- In contract, for an instance with parameters `p`. -/
def Instr.wellFormed (p : Params) : Instr → Bool
  | .encodeCommand data => dataFits p data && payloadPresent data && payloadFits p data
  | .genChecksum data => dataFits p data
  | .verifyAck data => dataFits p data && ackLengthRight data
  | .decodeResponse data expLen => dataFits p data && expLenFits p expLen
  | .checkFrame data _ => dataFits p data
  | .waitReady _ => true
  | .sendCommand data _ => dataFits p data && payloadPresent data && payloadFits p data
  | .transceive data expLen _ =>
    dataFits p data && expLenFits p expLen && payloadPresent data && payloadFits p data
  | .readResponse expLen _ => expLenFits p expLen
  | .getFirmwareVersion _ => 1 ≤ p.maxPayload
  | .configureSam => 3 ≤ p.maxPayload
  | .startPassiveDetection _ => 3 ≤ p.maxPayload
  | .readDetectedTarget _ => true

end Sys2Proof
end

