-- ==== Sys2Proof/Safety.lean ====
section
/-! DEFINITION. The terms claims use: the invariant of the block, the tables of the spec as predicates (raised errors, the
transition table), what stays the same across a step, and what an observer of a run counts. -/

namespace Sys2Proof.Machine

open Config (Params)

/-! ### Buffers -/

/-- The bytes that hold a value are exactly those at the indices `0 .. n)`, for the `n` they number. -/
abbrev Memory.Filled (m : Memory) : Prop := m.map Prod.fst = List.range m.length

/-- The buffer reads as `bs` from index 0 on, and holds no value above. -/
def Memory.Holds (m : Memory) (bs : List Byte) : Prop :=
  (∀ i, i < bs.length → Memory.get m i = bs[i]?) ∧ ∀ i, bs.length ≤ i → Memory.get m i = none

/-- No byte of the buffer holds a value (spec/10_state.md R28). -/
def Memory.Empty (m : Memory) : Prop := ∀ i, Memory.get m i = none

/-! ### The table of errors (spec/60_exceptions.md R232) -/

/-- The column `fail_state` of R232. -/
def Err.raisedIn : Err → St → Bool
  | .invalidArgument _, t => t == .idle
  | .ioError .writeFailed, t => t == .sending
  | .ioError .readyReadFailed, t => t == .awaitReadyAck || t == .awaitReadyRsp
  | .ioError .ackReadFailed, t => t == .awaitAck
  | .ioError .rspReadFailed, t => t == .awaitRsp
  | .timedOut .forAck, t => t == .awaitReadyAck
  | .timedOut .forResponse, t => t == .awaitReadyRsp
  | .ackMismatch, t => t == .awaitAck
  | .protocolError _, t => t == .awaitRsp
  | .decodeError .lengthMismatch, t => t == .idle
  | .decodeError .truncated, t | .decodeError .badStartCode, t | .decodeError .badLengthChecksum, t
  | .decodeError .badLength, t | .decodeError .badDirection, t | .decodeError .badDataChecksum, t
  | .decodeError .badPostamble, t => t == .idle || t == .awaitRsp

/-- The column "raised by" of R232, for an operation of the table and an instance with parameters `p`. `CHECK_FRAME` raises
the frame checks always, the others that decode a response only under `VERIFY_RSP_CHECKSUM`. -/
def Err.raisedBy (p : Params) : Err → Op → Bool
  | .invalidArgument .unknownOperation, _ => false
  | .invalidArgument .dataTooLong, o => o.readsData
  | .invalidArgument .payloadEmpty, o => o == .encodeCommand || o == .sendCommand || o == .transceive
  | .invalidArgument .payloadTooLong, o =>
    o == .encodeCommand || o == .sendCommand || o == .transceive
      || ((o == .configureSam || o == .startPassiveDetection) && p.maxPayload < 3)
  | .invalidArgument .expLenTooLarge, o => o.readsExpLen
  | .invalidArgument .badAckLength, o => o == .verifyAck
  | .ioError .writeFailed, o => o.sends
  | .ioError .readyReadFailed, o => !o.pureCodec
  | .ioError .ackReadFailed, o => o.sends
  | .ioError .rspReadFailed, o => o.readsResponse
  | .timedOut .forAck, o => o.sends
  | .timedOut .forResponse, o => o.readsResponse || o == .waitReady
  | .ackMismatch, o => o.sends
  | .protocolError .unexpectedHeader, o => o == .getFirmwareVersion
  | .protocolError .configRejected, o => o == .configureSam
  | .protocolError .uidOverrun, o => o == .readDetectedTarget
  | .decodeError .lengthMismatch, o => o == .decodeResponse
  | .decodeError _, o => o == .checkFrame || (p.verifyRspChecksum && (o == .decodeResponse || o.readsResponse))

/-- The error is a row of R232: raised by the operation of code `op`, in the state recorded in `fail_state`. A reserved code
raises `UnknownOperation` and nothing else. -/
def Err.inTable (p : Params) (e : Err) (op : Byte) (fail : St) : Prop :=
  e.raisedIn fail = true ∧
    match Op.ofCode op with
    | some o => e.raisedBy p o = true
    | none => e = .invalidArgument .unknownOperation

/-! ### The invariant -/

/-- The triple (`status`, `reason`, `fail_state`) goes with the state (spec/10_state.md R25, spec/60_exceptions.md R231,
R232): no outcome while `Idle` or busy, a success in `Done`, a row of the table of errors in `TimedOut` and `Failed`. -/
def State.OutcomeFits (s : State) : Prop :=
  match s.st with
  | .idle | .sending | .awaitReadyAck | .awaitAck | .awaitReadyRsp | .awaitRsp =>
    s.status = statusNone ∧ s.reason = 0x00 ∧ s.failState = .idle
  | .done => (∃ o : Success, s.status = o.status) ∧ s.reason = 0x00 ∧ s.failState = .idle
  | .timedOut =>
    ∃ r : TimeoutReason, s.status = (Err.timedOut r).status ∧ s.reason = (Err.timedOut r).reason ∧
      (Err.timedOut r).inTable s.cfg s.op s.failState
  | .failed =>
    ∃ e : Err, e.terminalState = .failed ∧ s.status = e.status ∧ s.reason = e.reason ∧
      e.inTable s.cfg s.op s.failState

/-- What every step keeps, and what reset meets. -/
structure State.Inv (s : State) : Prop where
  /-- The parameters are legal (spec/00_scope.md R6). -/
  params : s.cfg.Legal
  /-- Every register is in its range (spec/10_state.md R24). -/
  regs : s.regsLegal = true
  /-- `txbuf` holds `txlen` bytes, from index 0 on, and no value above (R26). -/
  tx : Memory.Filled s.txbuf ∧ s.txbuf.length = s.txlen
  /-- `rxbuf` holds at least the `rxlen` bytes of the last read, and nothing past its capacity (R27). -/
  rx : Memory.Filled s.rxbuf ∧ s.rxlen ≤ s.rxbuf.length ∧ s.rxbuf.length ≤ s.cfg.rxCap
  /-- `res_bytes` holds `res_len` bytes (R23). -/
  res : Memory.Filled s.resBytes ∧ s.resBytes.length = s.resLen
  /-- The operation in `op` goes with the session state (spec/41_session_fsm.md R154). -/
  op : s.opFits = true
  /-- A busy typed operation waits for the length its plan fixes (R142). -/
  len : s.st.quiescent = false → ∀ o n, Op.ofCode s.op = some o → o.fixedExpLen = some n → s.expLen = n
  /-- The frame waiting in `Sending` is a command frame (spec/30_encoding.md R73). -/
  frame : s.st = .sending → ∃ P : List Byte, 1 ≤ P.length ∧ P.length ≤ s.cfg.maxPayload ∧
    s.txbuf.map Prod.snd = frameOf tfiCommand P
  /-- While busy the result group is at its acceptance values, so there is room for a result (spec/30_encoding.md R83). -/
  noResult : s.st.quiescent = false → s.resFlag = false ∧ s.resWord = 0 ∧ s.resLen = 0
  /-- The outcome goes with the state. -/
  outcome : s.OutcomeFits

/-! ### What stays the same -/

/-- Everything that is no session register and no buffer is as it was: parameters, history, mark, agents' inputs. -/
structure EnvKept (s t : State) : Prop where
  cfg : t.cfg = s.cfg
  history : t.history = s.history
  concurrent : t.concurrent = s.concurrent
  caller : t.caller = s.caller
  transport : t.transport = s.transport
  oracleCalls : t.oracleCalls = s.oracleCalls

/-- The plan registers and the two frame buffers have the values acceptance gives them (spec/41_session_fsm.md R141 (1)). -/
structure PlanCleared (t : State) : Prop where
  timeout : t.timeout = 0
  elapsed : t.elapsed = 0
  expLen : t.expLen = 0
  txlen : t.txlen = 0
  rxlen : t.rxlen = 0
  txbuf : Memory.Empty t.txbuf
  rxbuf : Memory.Empty t.rxbuf

/-- `st` and the outcome triple. -/
def State.Reports (t : State) (st : St) (status reason : Byte) (fail : St) : Prop :=
  t.st = st ∧ t.status = status ∧ t.reason = reason ∧ t.failState = fail

/-- The result fields. -/
def State.Gives (t : State) (flag : Bool) (word : Word) (bytes : List Byte) : Prop :=
  t.resFlag = flag ∧ t.resWord = word ∧ t.resLen = bytes.length ∧ Memory.Holds t.resBytes bytes

/-- Presenting `i` in `s` is accepted and completes within the step, ending in `st` with this outcome and these results. All
else is at its acceptance value or as it was (spec/40_codec.md R100). -/
def CompletesAtOnce (i : Instr) (s : State) (st : St) (status reason : Byte) (flag : Bool) (word : Word)
    (bytes : List Byte) : Prop :=
  ∃ t, exec i s = .next t ∧ t.op = i.op.code ∧ t.Reports st status reason .idle ∧ t.Gives flag word bytes ∧
    PlanCleared t ∧ EnvKept s t

/-- Presenting `i` in `s` is accepted: the frame of payload `P` waits in `txbuf`, and the session is in `Sending` with this
expected length and budget (spec/41_session_fsm.md R141, R142). -/
def AcceptedToSend (i : Instr) (s : State) (P : List Byte) (expLen : Nat) (timeout : Word) : Prop :=
  ∃ t, exec i s = .next t ∧ t.op = i.op.code ∧ t.Reports .sending statusNone 0x00 .idle ∧ t.Gives false 0 [] ∧
    t.timeout = timeout ∧ t.expLen = expLen ∧ t.elapsed = 0 ∧ t.rxlen = 0 ∧ Memory.Empty t.rxbuf ∧
    t.txlen = P.length + 8 ∧ Memory.Holds t.txbuf (frameOf tfiCommand P) ∧ EnvKept s t

/-- Presenting `i` in `s` is accepted: nothing is sent, and the session polls for the response (R141, R142). -/
def AcceptedToPoll (i : Instr) (s : State) (expLen : Nat) (timeout : Word) : Prop :=
  ∃ t, exec i s = .next t ∧ t.op = i.op.code ∧ t.Reports .awaitReadyRsp statusNone 0x00 .idle ∧ t.Gives false 0 [] ∧
    t.timeout = timeout ∧ t.expLen = expLen ∧ t.elapsed = 0 ∧ t.rxlen = 0 ∧ Memory.Empty t.rxbuf ∧
    t.txlen = 0 ∧ Memory.Empty t.txbuf ∧ EnvKept s t

/-- Two states that differ at most in the history and in the sticky mark. -/
def SameButHistory (s t : State) : Prop :=
  { s with history := [], concurrent := false } = { t with history := [], concurrent := false }

/-! ### The transport's answers -/

/-- The transport answers the next `PortWrite` with `a`, leaving the script `rest` and the count `k` of free answers. The
answer is the script's if it is one the port can give (spec/20_memory.md R55), else a free one (R56). -/
def WriteAnswered (s : State) (a : PortAnswer) (rest : List PortAnswer) (k : Nat) : Prop :=
  (s.transport = a :: rest ∧ a.fitsWrite = true ∧ k = s.oracleCalls) ∨
    (a = freeWriteAnswer s.oracleCalls ∧ k = s.oracleCalls + 1 ∧
      ((s.transport = [] ∧ rest = []) ∨ ∃ x, s.transport = x :: rest ∧ x.fitsWrite = false))

/-- The transport answers the next `PortRead(n)` with `a`, leaving the script `rest` and the count `k` of free answers. -/
def ReadAnswered (s : State) (n : Nat) (a : PortAnswer) (rest : List PortAnswer) (k : Nat) : Prop :=
  (s.transport = a :: rest ∧ a.fitsRead n = true ∧ k = s.oracleCalls) ∨
    (a = freeReadAnswer n s.oracleCalls ∧ k = s.oracleCalls + 1 ∧
      ((s.transport = [] ∧ rest = []) ∨ ∃ x, s.transport = x :: rest ∧ x.fitsRead n = false))

/-- `s` with one event more and the transport past one answer: all a transaction changes by itself. -/
def State.afterEvent (s : State) (e : Event) (rest : List PortAnswer) (k : Nat) : State :=
  { s with history := s.history ++ [e], transport := rest, oracleCalls := k }

/-- `m` is `rxbuf` after the bytes `R` are stored from index 0 on: they are there, and every other byte is as it was. -/
def RxStored (s : State) (R : List Byte) (m : Memory) : Prop :=
  (∀ i, i < R.length → Memory.get m i = R[i]?) ∧ ∀ i, R.length ≤ i → Memory.get m i = Memory.get s.rxbuf i

/-- The response check passes: it is off, or the frame is good (spec/40_codec.md R115). -/
def ResponseAccepted (p : Params) (d : List Byte) : Prop :=
  p.verifyRspChecksum = false ∨ frameCheck d tfiResponse = .ok ()

/-- The answer of the transport to the ack read of a good ack: a readiness byte and the ack constant (R75). -/
def goodAck (b : Byte) : PortAnswer := .readOk (b :: ackFrame)

/-! ### Runs -/

/-- `k` steps of the machine, stopping at the first fault or refusal (`Host.Core.run` of `core`, see `runs_eq_core_run`). -/
def runs : Nat → State → Result
  | 0, s => .next s
  | k + 1, s =>
    match step s with
    | .next t => runs k t
    | .fault f => .fault f
    | .refused r => .refused r

/-- The events of sending a frame of payload `P` and reading a good ack, with the device ready at once. -/
def sendEvents (p : Params) (P : List Byte) (b : Byte) : List Event :=
  [.write p.peerAddr (frameOf tfiCommand P) .writeOk, .read p.peerAddr 1 (.readOk [readyByte]),
    .read p.peerAddr 7 (goodAck b)]

/-- The events of polling once, ready, and reading the response `R`. -/
def responseEvents (p : Params) (R : List Byte) : List Event :=
  [.read p.peerAddr 1 (.readOk [readyByte]), .read p.peerAddr R.length (.readOk R)]

/-- The number of poll reads of a loop with budget `T` and interval `P` that never sees ready (R147): `ceil(T / P) + 1`. -/
def pollReads (T P : Nat) : Nat := (T + P - 1) / P + 1

/-- The events of a poll loop whose reads return `bs`, with a sleep of `P` between two of them (R146, R147). -/
def pollEvents (peer P : Nat) : List Byte → List Event
  | [] => []
  | [b] => [.read peer 1 (.readOk [b])]
  | b :: bs => .read peer 1 (.readOk [b]) :: .sleep P :: pollEvents peer P bs

/-- Is the event a transport transaction? -/
def Event.isTransaction : Event → Bool
  | .write _ _ _ | .read _ _ _ => true
  | .sleep _ => false

/-- Is the event a sleep? -/
def Event.isSleep : Event → Bool
  | .sleep _ => true
  | .write _ _ _ | .read _ _ _ => false

/-- The ways `st` can change in one session step from a busy state (spec/41_session_fsm.md R154). -/
def St.canStep : St → St → Bool
  | .sending, t => t == .failed || t == .awaitReadyAck
  | .awaitReadyAck, t => t == .failed || t == .awaitAck || t == .timedOut || t == .awaitReadyAck
  | .awaitAck, t => t == .failed || t == .done || t == .awaitReadyRsp
  | .awaitReadyRsp, t => t == .failed || t == .done || t == .awaitRsp || t == .timedOut || t == .awaitReadyRsp
  | .awaitRsp, t => t == .failed || t == .done
  | .idle, _ | .done, _ | .timedOut, _ | .failed, _ => false

/-- The transaction widths of spec/20_memory.md R53, as a state issues them. -/
def Event.widthOf (s : State) : Event → Prop
  | .write peer B _ => s.st = .sending ∧ peer = s.cfg.peerAddr ∧ B.length = s.txlen
  | .read peer n _ =>
    peer = s.cfg.peerAddr ∧
      ((n = 1 ∧ (s.st = .awaitReadyAck ∨ s.st = .awaitReadyRsp)) ∨ (n = 7 ∧ s.st = .awaitAck) ∨
        (n = s.expLen + 1 ∧ s.st = .awaitRsp))
  | .sleep ms => ms = s.cfg.pollInterval ∧ (s.st = .awaitReadyAck ∨ s.st = .awaitReadyRsp)

end Sys2Proof.Machine
end

