-- ==== Sys2Proof/Certificates/Slice0/Obligations.lean ====
section
/-! DEFINITION. The statements for the provers, in the order: reset and requests, codec functions, pure codec operations,
acceptance, session steps, interpretations, whole exchanges, whole-machine rules. -/

open Sys2Proof Sys2Proof.Machine
open Sys2Proof.Config (Params)

/-! ### Reset and requests -/

/-- spec/70_reset_and_hazards.md R260: what reset leaves, for an instance with any parameters. -/
def Obligations.ResetStateHoldsSpecValues : Prop :=
  (∀ p : Params,
    let s := State.resetWith p
    s.cfg = p ∧ s.st = .idle ∧ s.st.code = 0 ∧ s.op = 0x00 ∧ s.timeout = 0 ∧ s.elapsed = 0 ∧ s.expLen = 0 ∧
      s.txlen = 0 ∧ s.rxlen = 0 ∧ s.status = 0xFF ∧ s.reason = 0x00 ∧ s.failState = .idle ∧ s.resFlag = false ∧
      s.resWord = 0 ∧ s.resLen = 0 ∧ Memory.Empty s.txbuf ∧ Memory.Empty s.rxbuf ∧ Memory.Empty s.resBytes ∧
      s.history = []) ∧
    ∃ p : Params, p.Legal ∧ State.reset = State.resetWith p

/-- The invariant holds at reset, for every instance with legal parameters. -/
def Obligations.ResetMeetsInvariant : Prop :=
  (∀ p : Params, p.Legal → (State.resetWith p).Inv) ∧ State.reset.Inv

/-- Words written out from the operation select map (spec/30_encoding.md R72). A request is a record and no word (R81): that a
table word stands for the request with that code and every operand at its default is the model's DESIGN CHOICE (log 16). -/
def Obligations.OpselWordsDecodeToTheirRows : Prop :=
  decodeTableWord 8 0x01 = some (.encodeCommand []) ∧ decodeTableWord 8 0x03 = some (.verifyAck []) ∧
    decodeTableWord 8 0x10 = some (.waitReady 0) ∧ decodeTableWord 8 0x12 = some (.transceive [] 0 0) ∧
    decodeTableWord 8 0x20 = some (.getFirmwareVersion 0) ∧ decodeTableWord 8 0x23 = some (.readDetectedTarget 0) ∧
    decodeTableWord 8 0x00 = none ∧ decodeTableWord 8 0x06 = none ∧ decodeTableWord 8 0x14 = none ∧
    decodeTableWord 8 0xFF = none

/-- Decoder and encoder agree in both directions: no operand is dropped, every field an operation does not read is ignored
(spec/30_encoding.md R70, R80), and the refused requests are exactly those whose code no row has (R72). -/
def Obligations.DecodeAndEncodeAgree : Prop :=
  (∀ i : Instr, decode (encode i) = .ok i) ∧
    (∀ (r : Request) (i : Instr), decode r = .ok i → encode i = r.canonical i.op ∧ r.opsel = i.op.code) ∧
    ∀ r : Request, (∀ o : Op, r.opsel ≠ o.code) ↔ decode r = .error (.reservedOpsel r.opsel)

/-- Examples of the textual request syntax (spec/30_encoding.md R82 and the examples of spec/41_session_fsm.md). -/
def Obligations.TextualRequestsReadAsTheirRecords : Prop :=
  readRequest "TRANSCEIVE data=[0x02] exp_len=13 timeout=100" =
      .ok { opsel := 0x12, data := [0x02], expLen := 13, timeout := 100 } ∧
    readRequest "START_PASSIVE_DETECTION brty=0x00" = .ok { opsel := 0x22 } ∧
    readRequest "GEN_CHECKSUM data=[]" = .ok { opsel := 0x02 } ∧
    readRequest "HALT" = .error .unknownMnemonic

/-- A step runs the decoded operation: a request that decodes to `i` is `exec i` of the state with the caller's act taken,
when presented now, or called while quiescent; a call waits while the session is busy (spec/41_session_fsm.md R140). -/
def Obligations.StepRunsThePresentedRequest : Prop :=
  ∀ (s : State) (r : Request) (i : Instr) (rest : List CallerAct),
    s.cfg.Legal → s.regsLegal = true → decode r = .ok i →
      (s.caller = .present r :: rest → step s = exec i { s with caller := rest }) ∧
      (s.caller = .call r :: rest → s.st.quiescent = true → step s = exec i { s with caller := rest }) ∧
      (s.caller = .call r :: rest → s.st.quiescent = false → step s = sessionStep s)

/-- Without an act of the caller a step is a session step; a `pass` is taken and lets one through. -/
def Obligations.StepWithoutRequestIsASessionStep : Prop :=
  ∀ s : State, s.cfg.Legal → s.regsLegal = true →
    (s.caller = [] → step s = sessionStep s) ∧
    ∀ rest, s.caller = .pass :: rest → step s = sessionStep { s with caller := rest }

/-- spec/30_encoding.md R72, R80 and spec/41_session_fsm.md R141: a reserved code ends in `Failed` with
`InvalidArgument(UnknownOperation)`, whatever the other fields hold, and no transport transaction. -/
def Obligations.ReservedOpselEndsInFailed : Prop :=
  ∀ (s : State) (r : Request), s.st.quiescent = true → (∀ o : Op, r.opsel ≠ o.code) →
    ∃ t, presentRequest r s = .next t ∧ t.op = r.opsel ∧ t.Reports .failed 0x01 0x01 .idle ∧ t.Gives false 0 [] ∧
      PlanCleared t ∧ EnvKept s t

/-! ### Codec functions -/

/-- spec/00_scope.md R10 and spec/40_codec.md R101: the checksum in exact arithmetic; spec/40_codec.md R103: it is the one
byte the check accepts. -/
def Obligations.ChecksumIsTheOneAcceptedByte : Prop :=
  ∀ (D : List Byte) (c : Byte),
    (csum D).toNat = (256 - (D.map BitVec.toNat).sum % 256) % 256 ∧
      (csumOk D c = true ↔ ((D.map BitVec.toNat).sum + c.toNat) % 256 = 0) ∧ (csumOk D c = true ↔ c = csum D)

/-- spec/40_codec.md R105 with the layout of spec/30_encoding.md R73, index by index. -/
def Obligations.EncodedFrameHasTheCommandLayout : Prop :=
  ∀ (maxPayload : Nat) (P : List Byte), maxPayload ≤ 254 →
    (P.length = 0 → encodeFrame maxPayload P = .error .payloadEmpty) ∧
    (maxPayload < P.length → encodeFrame maxPayload P = .error .payloadTooLong) ∧
    (1 ≤ P.length → P.length ≤ maxPayload →
      ∃ F, encodeFrame maxPayload P = .ok F ∧ F.length = P.length + 8 ∧
        F[0]? = some 0x00 ∧ F[1]? = some 0x00 ∧ F[2]? = some 0xFF ∧
        (F[3]?).map BitVec.toNat = some (P.length + 1) ∧
        (F[4]?).map BitVec.toNat = some (256 - (P.length + 1)) ∧
        F[5]? = some 0xD4 ∧ (∀ i, i < P.length → F[6 + i]? = P[i]?) ∧
        (F[6 + P.length]?).map BitVec.toNat = some ((256 - (0xD4 + (P.map BitVec.toNat).sum) % 256) % 256) ∧
        F[7 + P.length]? = some 0x00)

/-- spec/40_codec.md R125: the round trip of a command frame. -/
def Obligations.EncodedFramePassesTheFrameCheck : Prop :=
  ∀ (maxPayload : Nat) (P : List Byte), maxPayload ≤ 254 → 1 ≤ P.length → P.length ≤ maxPayload →
    ∃ F, encodeFrame maxPayload P = .ok F ∧ frameCheck F 0xD4 = .ok () ∧
      (F[3]?).map BitVec.toNat = some (P.length + 1) ∧ slice F 6 (6 + P.length) = P ∧
      F[4]? = (F[3]?).map (fun L => csum [L]) ∧ F[6 + P.length]? = some (csum (slice F 5 (6 + P.length)))

/-- spec/40_codec.md R120 with the shape of spec/30_encoding.md R76: the frame check passes exactly the frames laid out with
that direction byte, whatever follows their postamble. -/
def Obligations.FrameCheckPassesExactlyLaidOutFrames : Prop :=
  ∀ (F : List Byte) (t : Byte),
    frameCheck F t = .ok () ↔ ∃ D tail, D.length ≤ 254 ∧ F = frameOf t D ++ tail

/-- spec/40_codec.md R120: the checks run in the rule's order, and the first that fails gives the result. The sums are in
exact arithmetic, the positions those of the rule; what follows the postamble is not examined. -/
def Obligations.FrameCheckReportsTheFirstFailingTest : Prop :=
  ∀ (F : List Byte) (t : Byte),
    (F.length < 5 → frameCheck F t = .error .truncated) ∧
    (5 ≤ F.length → F.take 3 ≠ [0x00, 0x00, 0xFF] → frameCheck F t = .error .badStartCode) ∧
    ∀ L C : Byte, F.take 3 = [0x00, 0x00, 0xFF] → F[3]? = some L → F[4]? = some C →
      ((L.toNat + C.toNat) % 256 ≠ 0 → frameCheck F t = .error .badLengthChecksum) ∧
      ((L.toNat + C.toNat) % 256 = 0 → L = 0 → frameCheck F t = .error .badLength) ∧
      ((L.toNat + C.toNat) % 256 = 0 → L ≠ 0 → F.length < L.toNat + 7 → frameCheck F t = .error .truncated) ∧
      ∀ d K p : Byte, (L.toNat + C.toNat) % 256 = 0 → L ≠ 0 →
        F[5]? = some d → F[5 + L.toNat]? = some K → F[6 + L.toNat]? = some p →
        let total := (((F.drop 5).take L.toNat).map BitVec.toNat).sum + K.toNat
        (d ≠ t → frameCheck F t = .error .badDirection) ∧
        (d = t → total % 256 ≠ 0 → frameCheck F t = .error .badDataChecksum) ∧
        (d = t → total % 256 = 0 → p ≠ 0x00 → frameCheck F t = .error .badPostamble) ∧
        (d = t → total % 256 = 0 → p = 0x00 → frameCheck F t = .ok ())

/-- spec/40_codec.md R120, the ack constant and a zero length field (corner cases of R121). -/
def Obligations.AckIsReportedAsBadLengthChecksum : Prop :=
  ∀ (t : Byte) (tail : List Byte),
    frameCheck (ackFrame ++ tail) t = .error .badLengthChecksum ∧
      frameCheck ([0x00, 0x00, 0xFF, 0x00, 0x00] ++ tail) t = .error .badLength

/-- spec/40_codec.md R110: the ack validator accepts exactly a readiness byte, any, and the six ack bytes; so it rejects
every single-byte change of the last six. -/
def Obligations.AckValidatorAcceptsExactlyTheAck : Prop :=
  ∀ B : List Byte, B.length = 7 →
    (ackMatches B = true ↔ ∃ b, B = [b, 0x00, 0x00, 0xFF, 0x00, 0xFF, 0x00]) ∧
      ∀ (i : Nat) (v : Byte), ackMatches B = true → 1 ≤ i → i < 7 → B[i]? ≠ some v → ackMatches (B.set i v) = false

/-- spec/40_codec.md R126: the response deserializer returns a slice of its input, unchanged, and with the check off it is
total on every input of the right length. -/
def Obligations.DecodedResponseIsASliceOfTheInput : Prop :=
  ∀ (verify : Bool) (B : List Byte) (n : Nat),
    (∀ d, unframeResponse verify B n = .ok d → ∃ b, B = b :: d ∧ d.length = n) ∧
    (B.length = n + 1 → unframeResponse false B n = .ok (B.drop 1)) ∧
    (B.length ≠ n + 1 → unframeResponse verify B n = .error .lengthMismatch)

/-- spec/20_memory.md R52 and spec/10_state.md R28: what a buffer write stores, that it changes nothing else and keeps the
canonical form, and the two ways an access faults. -/
def Obligations.BufferAccessesFollowTheirRules : Prop :=
  ∀ (m : Memory) (cap a : Nat) (v : List Byte), Memory.wf m →
    (a + v.length ≤ cap →
      ∃ m', memWrite m cap a v = .ok m' ∧ Memory.wf m' ∧ memRead m' cap a v.length = .ok v ∧
        ∀ i, i < a ∨ a + v.length ≤ i → Memory.get m' i = Memory.get m i) ∧
    (cap < a + v.length → memWrite m cap a v = .error .bufferOverrun) ∧
    ∀ n, (cap < a + n → memRead m cap a n = .error .bufferOverrun) ∧
      (∀ i, a + n ≤ cap → i < n → Memory.get m (a + i) = none → memRead m cap a n = .error .noValue)

/-! ### Pure codec operations -/

/-- spec/40_codec.md R102. -/
def Obligations.GenChecksumResult : Prop :=
  ∀ (data : List Byte) (s : State), s.st.quiescent = true →
    (data.length ≤ s.cfg.rxCap →
      CompletesAtOnce (.genChecksum data) s .done 0x00 0x00 false ((csum data).zeroExtend 32) [csum data]) ∧
    (s.cfg.rxCap < data.length → CompletesAtOnce (.genChecksum data) s .failed 0x01 0x02 false 0 [])

/-- spec/40_codec.md R106. -/
def Obligations.EncodeCommandResult : Prop :=
  ∀ (data : List Byte) (s : State), s.st.quiescent = true → s.cfg.Legal →
    (1 ≤ data.length → data.length ≤ s.cfg.maxPayload →
      CompletesAtOnce (.encodeCommand data) s .done 0x00 0x00 false 0
        ([0x00, 0x00, 0xFF, BitVec.ofNat 8 (data.length + 1), neg8 (BitVec.ofNat 8 (data.length + 1)), 0xD4] ++ data ++
          [neg8 (sum8 (0xD4 :: data)), 0x00])) ∧
    (data.length = 0 → CompletesAtOnce (.encodeCommand data) s .failed 0x01 0x03 false 0 []) ∧
    (s.cfg.maxPayload < data.length → data.length ≤ s.cfg.rxCap →
      CompletesAtOnce (.encodeCommand data) s .failed 0x01 0x04 false 0 []) ∧
    (s.cfg.rxCap < data.length → CompletesAtOnce (.encodeCommand data) s .failed 0x01 0x02 false 0 [])

/-- spec/40_codec.md R111: a mismatch is the result 0 with `status = OK`, a wrong length an error. -/
def Obligations.VerifyAckResult : Prop :=
  ∀ (data : List Byte) (s : State), s.st.quiescent = true →
    (data.length = 7 →
      CompletesAtOnce (.verifyAck data) s .done 0x00 0x00 (data.drop 1 == [0x00, 0x00, 0xFF, 0x00, 0xFF, 0x00]) 0 []) ∧
    (data.length ≠ 7 → data.length ≤ s.cfg.rxCap → CompletesAtOnce (.verifyAck data) s .failed 0x01 0x06 false 0 []) ∧
    (s.cfg.rxCap < data.length → CompletesAtOnce (.verifyAck data) s .failed 0x01 0x02 false 0 [])

/-- spec/40_codec.md R116, in the order of its checks. -/
def Obligations.DecodeResponseResult : Prop :=
  ∀ (data : List Byte) (n : Half) (s : State), s.st.quiescent = true →
    (s.cfg.rxCap < data.length → CompletesAtOnce (.decodeResponse data n) s .failed 0x01 0x02 false 0 []) ∧
    (data.length ≤ s.cfg.rxCap → s.cfg.rxMaxFrame < n.toNat →
      CompletesAtOnce (.decodeResponse data n) s .failed 0x01 0x05 false 0 []) ∧
    (data.length ≤ s.cfg.rxCap → n.toNat ≤ s.cfg.rxMaxFrame → data.length ≠ n.toNat + 1 →
      CompletesAtOnce (.decodeResponse data n) s .failed 0x06 0x01 false 0 []) ∧
    (n.toNat ≤ s.cfg.rxMaxFrame → data.length = n.toNat + 1 → ResponseAccepted s.cfg (data.drop 1) →
      CompletesAtOnce (.decodeResponse data n) s .done 0x00 0x00 false 0 (data.drop 1)) ∧
    ∀ x, n.toNat ≤ s.cfg.rxMaxFrame → data.length = n.toNat + 1 → s.cfg.verifyRspChecksum = true →
      frameCheck (data.drop 1) 0xD5 = .error x →
      CompletesAtOnce (.decodeResponse data n) s .failed 0x06 (Err.decodeError x).reason false 0 []

/-- spec/40_codec.md R121. -/
def Obligations.CheckFrameResult : Prop :=
  ∀ (data : List Byte) (tfi : Byte) (s : State), s.st.quiescent = true →
    (s.cfg.rxCap < data.length → CompletesAtOnce (.checkFrame data tfi) s .failed 0x01 0x02 false 0 []) ∧
    (∀ L, data.length ≤ s.cfg.rxCap → frameCheck data tfi = .ok () → data[3]? = some L →
      CompletesAtOnce (.checkFrame data tfi) s .done 0x00 0x00 true (L.zeroExtend 32) []) ∧
    ∀ x, data.length ≤ s.cfg.rxCap → frameCheck data tfi = .error x →
      CompletesAtOnce (.checkFrame data tfi) s .failed 0x06 (Err.decodeError x).reason false 0 []

/-- spec/40_codec.md R100: a pure codec operation is whole within the accepting step and touches nothing but the result group
and `op`; the plan registers and frame buffers keep their acceptance values, and there is no transport event. -/
def Obligations.PureCodecOperationsTouchOnlyTheResult : Prop :=
  ∀ (i : Instr) (s : State), i.op.pureCodec = true → s.st.quiescent = true →
    ∃ t, exec i s = .next t ∧ (t.st = .done ∨ t.st = .failed) ∧ t.op = i.op.code ∧ PlanCleared t ∧ EnvKept s t

/-! ### Acceptance -/

/-- spec/41_session_fsm.md R141 and R142: the operations that send. The payload, expected length and budget are those of the
plan table; the session is in `Sending`. The payload order `[CMD_INLIST, 0x01, brty]` of START_PASSIVE_DETECTION is what
spec/42_typed_operations.md R200 takes from general knowledge: PRESUMED (log 21). -/
def Obligations.SendingOperationsAreAccepted : Prop :=
  ∀ (s : State), s.st.quiescent = true → s.cfg.Legal →
    (∀ data T, (Instr.sendCommand data T).wellFormed s.cfg = true →
      AcceptedToSend (.sendCommand data T) s data 0 T) ∧
    (∀ data n T, (Instr.transceive data n T).wellFormed s.cfg = true →
      AcceptedToSend (.transceive data n T) s data n.toNat T) ∧
    (∀ T, AcceptedToSend (.getFirmwareVersion T) s [0x02] 13 T) ∧
    (3 ≤ s.cfg.maxPayload → AcceptedToSend .configureSam s s.cfg.samPayload.toList 9 s.cfg.defaultTimeout) ∧
    ∀ brty, 3 ≤ s.cfg.maxPayload →
      AcceptedToSend (.startPassiveDetection brty) s [s.cfg.cmdInlist, 0x01, brty] 0 s.cfg.defaultTimeout

/-- spec/41_session_fsm.md R141 and R142: the operations that send nothing enter `AwaitReadyRsp` at once. -/
def Obligations.PollingOperationsAreAccepted : Prop :=
  ∀ (s : State), s.st.quiescent = true →
    (∀ T, AcceptedToPoll (.waitReady T) s 0 T) ∧
    (∀ n T, n.toNat ≤ s.cfg.rxMaxFrame → AcceptedToPoll (.readResponse n T) s n.toNat T) ∧
    ∀ T, AcceptedToPoll (.readDetectedTarget T) s 20 T

/-- spec/41_session_fsm.md R141: the argument errors of the session and typed operations, empty and over-long payloads of
both operations that take one. That the budget and expected length of the plan are already latched when the payload is encoded
is the model's reading (log 13). -/
def Obligations.SessionArgumentErrors : Prop :=
  ∀ (s : State), s.st.quiescent = true →
    (∀ T, ∃ t, exec (.sendCommand [] T) s = .next t ∧ t.Reports .failed 0x01 0x03 .idle ∧ t.timeout = T ∧
      t.txlen = 0 ∧ EnvKept s t) ∧
    (∀ data T, s.cfg.maxPayload < data.length → data.length ≤ s.cfg.rxCap →
      ∃ t, exec (.sendCommand data T) s = .next t ∧ t.Reports .failed 0x01 0x04 .idle ∧ t.timeout = T ∧ EnvKept s t) ∧
    (∀ n T, n.toNat ≤ s.cfg.rxMaxFrame →
      ∃ t, exec (.transceive [] n T) s = .next t ∧ t.Reports .failed 0x01 0x03 .idle ∧ t.timeout = T ∧
        t.expLen = n.toNat ∧ t.txlen = 0 ∧ EnvKept s t) ∧
    (∀ data n T, s.cfg.maxPayload < data.length → data.length ≤ s.cfg.rxCap → n.toNat ≤ s.cfg.rxMaxFrame →
      ∃ t, exec (.transceive data n T) s = .next t ∧ t.Reports .failed 0x01 0x04 .idle ∧ t.timeout = T ∧
        t.expLen = n.toNat ∧ EnvKept s t) ∧
    (∀ data n T, data.length ≤ s.cfg.rxCap → s.cfg.rxMaxFrame < n.toNat →
      ∃ t, exec (.transceive data n T) s = .next t ∧ t.Reports .failed 0x01 0x05 .idle ∧ PlanCleared t ∧ EnvKept s t) ∧
    (∀ n T, s.cfg.rxMaxFrame < n.toNat →
      ∃ t, exec (.readResponse n T) s = .next t ∧ t.Reports .failed 0x01 0x05 .idle ∧ PlanCleared t ∧ EnvKept s t) ∧
    (s.cfg.maxPayload < 3 →
      (∃ t, exec .configureSam s = .next t ∧ t.Reports .failed 0x01 0x04 .idle ∧ EnvKept s t) ∧
        ∀ brty, ∃ t, exec (.startPassiveDetection brty) s = .next t ∧ t.Reports .failed 0x01 0x04 .idle ∧ EnvKept s t)

/-- spec/60_exceptions.md R234: presented when quiescent, every operation gives a next state; it ends in `InvalidArgument`
exactly when it is out of contract, and no transport event or sleep happens either way. -/
def Obligations.ArgumentErrorsExactlyOutOfContract : Prop :=
  ∀ (i : Instr) (s : State), s.st.quiescent = true →
    ∃ t, exec i s = .next t ∧ EnvKept s t ∧ (t.status = 0x01 ↔ i.wellFormed s.cfg = false) ∧
      (i.wellFormed s.cfg = false → t.Reports .failed 0x01 t.reason .idle)

/-- spec/60_exceptions.md R234, the order of the checks of a request's arguments: `UnknownOperation` before `DataTooLong`
before `ExpLenTooLarge` before the operation's own. -/
def Obligations.ArgumentChecksComeInOrder : Prop :=
  ∀ (r : Request) (s : State), s.st.quiescent = true →
    ((∀ o : Op, r.opsel ≠ o.code) → ∃ t, presentRequest r s = .next t ∧ t.Reports .failed 0x01 0x01 .idle) ∧
    (∀ o : Op, r.opsel = o.code → o.readsData = true → s.cfg.rxCap < r.data.length →
      ∃ t, presentRequest r s = .next t ∧ t.Reports .failed 0x01 0x02 .idle) ∧
    (∀ o : Op, r.opsel = o.code → o.readsExpLen = true → (o.readsData = true → r.data.length ≤ s.cfg.rxCap) →
      s.cfg.rxMaxFrame < r.expLen.toNat → ∃ t, presentRequest r s = .next t ∧ t.Reports .failed 0x01 0x05 .idle)

/-- spec/20_memory.md R62: a request presented while busy sets the mark and takes no transition, reserved codes included;
no step clears the mark. -/
def Obligations.RequestWhileBusySetsTheMarkOnly : Prop :=
  (∀ (r : Request) (s : State), s.st.quiescent = false →
    presentRequest r s = .next { s with concurrent := true }) ∧
    ∀ s t : State, step s = .next t → s.concurrent = true → t.concurrent = true

/-- spec/70_reset_and_hazards.md R261: a reset at any moment leaves the state of R260 and issues no event. That the parameters,
the agents' inputs and the sticky mark stay is the model's choice (log 18). -/
def Obligations.ResetAbandonsTheExchange : Prop :=
  ∀ (s : State) (rest : List CallerAct), s.cfg.Legal → s.regsLegal = true → s.caller = .reset :: rest →
    step s =
      .next { State.resetWith s.cfg with
        concurrent := s.concurrent
        caller := rest
        transport := s.transport
        oracleCalls := s.oracleCalls }

/-! ### Session steps -/

/-- spec/41_session_fsm.md R144: the step in `Sending`. The first clause says there is no other answer. -/
def Obligations.SendingStepWritesTheFrame : Prop :=
  ∀ (s : State) (a : PortAnswer) (rest : List PortAnswer) (k : Nat), s.Inv → s.st = .sending →
    WriteAnswered s a rest k →
    ∃ B, Memory.Holds s.txbuf B ∧ B.length = s.txlen ∧ (a = .ioError ∨ a = .writeOk) ∧
      let t := s.afterEvent (.write s.cfg.peerAddr B a) rest k
      (a = .ioError →
        sessionStep s = .next { t with st := .failed, status := 0x02, reason := 0x01, failState := .sending }) ∧
      (a = .writeOk → sessionStep s = .next { t with st := .awaitReadyAck, elapsed := 0 })

/-- spec/41_session_fsm.md R145: one readiness poll. Read first, then the ready test, then the timeout test, then the sleep. -/
def Obligations.PollStepFollowsItsRule : Prop :=
  ∀ (s : State) (a : PortAnswer) (rest : List PortAnswer) (k : Nat),
    (s.st = .awaitReadyAck ∨ s.st = .awaitReadyRsp) → s.opFits = true → ReadAnswered s 1 a rest k →
    let t := s.afterEvent (.read s.cfg.peerAddr 1 a) rest k
    (a = .ioError ∨ ∃ b, a = .readOk [b]) ∧
    (a = .ioError →
      sessionStep s = .next { t with st := .failed, status := 0x02, reason := 0x02, failState := s.st }) ∧
    (a = .readOk [0x01] → s.st = .awaitReadyAck → sessionStep s = .next { t with st := .awaitAck }) ∧
    (a = .readOk [0x01] → s.st = .awaitReadyRsp → s.op = 0x10 →
      sessionStep s = .next { t with st := .done, status := 0x00, reason := 0x00, failState := .idle }) ∧
    (a = .readOk [0x01] → s.st = .awaitReadyRsp → s.op ≠ 0x10 → sessionStep s = .next { t with st := .awaitRsp }) ∧
    (∀ b, a = .readOk [b] → b ≠ 0x01 → s.timeout.toNat ≤ s.elapsed →
      sessionStep s =
        .next { t with
          st := .timedOut
          status := 0x03
          reason := if s.st = .awaitReadyAck then 0x01 else 0x02
          failState := s.st }) ∧
    ∀ b, a = .readOk [b] → b ≠ 0x01 → s.elapsed < s.timeout.toNat →
      sessionStep s =
        .next { t with
          elapsed := s.elapsed + s.cfg.pollInterval
          history := s.history ++ [.read s.cfg.peerAddr 1 a, .sleep s.cfg.pollInterval] }

/-- spec/41_session_fsm.md R148: the step in `AwaitAck`. The 7 bytes are in `rxbuf` whether or not they are the ack. -/
def Obligations.AckStepFollowsItsRule : Prop :=
  ∀ (s : State) (a : PortAnswer) (rest : List PortAnswer) (k : Nat),
    s.st = .awaitAck → s.opFits = true → ReadAnswered s 7 a rest k →
    let t := s.afterEvent (.read s.cfg.peerAddr 7 a) rest k
    (a = .ioError →
      sessionStep s = .next { t with st := .failed, status := 0x02, reason := 0x03, failState := .awaitAck }) ∧
    (a ≠ .ioError → ∃ R, a = .readOk R ∧ R.length = 7) ∧
    ∀ R, a = .readOk R → ∃ m, RxStored s R m ∧
      (R.drop 1 ≠ [0x00, 0x00, 0xFF, 0x00, 0xFF, 0x00] →
        sessionStep s =
          .next { t with
            rxbuf := m, rxlen := 7, st := .failed, status := 0x04, reason := 0x00, failState := .awaitAck }) ∧
      (R.drop 1 = [0x00, 0x00, 0xFF, 0x00, 0xFF, 0x00] →
        ((s.op = 0x11 ∨ s.op = 0x22) →
          sessionStep s =
            .next { t with
              rxbuf := m, rxlen := 7, st := .done, status := 0x00, reason := 0x00, failState := .idle }) ∧
        (s.op ≠ 0x11 → s.op ≠ 0x22 →
          sessionStep s = .next { t with rxbuf := m, rxlen := 7, elapsed := 0, st := .awaitReadyRsp }))

/-- spec/41_session_fsm.md R149, R150 and spec/60_exceptions.md R235: the step in `AwaitRsp`, up to the interpretation of the
typed operations. A failed read comes before a failed check, which comes before the interpretation; for TRANSCEIVE and
READ_RESPONSE the decoded response is handed back unchanged. -/
def Obligations.ResponseStepFollowsItsRule : Prop :=
  ∀ (s : State) (a : PortAnswer) (rest : List PortAnswer) (k : Nat),
    s.Inv → s.st = .awaitRsp → ReadAnswered s (s.expLen + 1) a rest k →
    let t := s.afterEvent (.read s.cfg.peerAddr (s.expLen + 1) a) rest k
    (a = .ioError →
      sessionStep s = .next { t with st := .failed, status := 0x02, reason := 0x04, failState := .awaitRsp }) ∧
    (a ≠ .ioError → ∃ R, a = .readOk R ∧ R.length = s.expLen + 1) ∧
    ∀ R, a = .readOk R → ∃ m, RxStored s R m ∧
      (∀ x, s.cfg.verifyRspChecksum = true → frameCheck (R.drop 1) 0xD5 = .error x →
        sessionStep s =
          .next { t with
            rxbuf := m, rxlen := s.expLen + 1, st := .failed, status := 0x06,
            reason := (Err.decodeError x).reason, failState := .awaitRsp }) ∧
      (ResponseAccepted s.cfg (R.drop 1) → (s.op = 0x12 ∨ s.op = 0x13) →
        ∃ b, Memory.Holds b (R.drop 1) ∧
          sessionStep s =
            .next { t with
              rxbuf := m, rxlen := s.expLen + 1, st := .done, status := 0x00, reason := 0x00, failState := .idle,
              resLen := s.expLen, resBytes := b })

/-! ### Interpretations of the typed operations -/

/-- spec/42_typed_operations.md R190 to R192: the firmware response. The word is the four version bytes, big-endian. -/
def Obligations.FirmwareResponseIsInterpreted : Prop :=
  ∀ (s : State) (R : List Byte) (rest : List PortAnswer) (k : Nat),
    s.Inv → s.st = .awaitRsp → s.op = 0x20 → ReadAnswered s (s.expLen + 1) (.readOk R) rest k →
    ResponseAccepted s.cfg (R.drop 1) →
    let d := R.drop 1
    let t := s.afterEvent (.read s.cfg.peerAddr 14 (.readOk R)) rest k
    d.length = 13 ∧ ∃ m, RxStored s R m ∧
      (d.take 6 ≠ [0x00, 0x00, 0xFF, 0x06, 0xFA, 0xD5] →
        sessionStep s =
          .next { t with
            rxbuf := m, rxlen := 14, st := .failed, status := 0x05, reason := 0x01, failState := .awaitRsp }) ∧
      ∀ chip major minor build : Byte, d.take 6 = [0x00, 0x00, 0xFF, 0x06, 0xFA, 0xD5] →
        (d.drop 7).take 4 = [chip, major, minor, build] →
        ∃ w b, w.toNat = chip.toNat * 2 ^ 24 + major.toNat * 2 ^ 16 + minor.toNat * 2 ^ 8 + build.toNat ∧
          Memory.Holds b [chip, major, minor, build] ∧
          sessionStep s =
            .next { t with
              rxbuf := m, rxlen := 14, st := .done, status := 0x00, reason := 0x00, failState := .idle,
              resWord := w, resLen := 4, resBytes := b }

/-- spec/42_typed_operations.md R195: only the marker byte of the SAM response is read. -/
def Obligations.SamResponseIsInterpreted : Prop :=
  ∀ (s : State) (R : List Byte) (rest : List PortAnswer) (k : Nat),
    s.Inv → s.st = .awaitRsp → s.op = 0x21 → ReadAnswered s (s.expLen + 1) (.readOk R) rest k →
    ResponseAccepted s.cfg (R.drop 1) →
    let d := R.drop 1
    let t := s.afterEvent (.read s.cfg.peerAddr 10 (.readOk R)) rest k
    d.length = 9 ∧ ∃ m, RxStored s R m ∧
      (d[s.cfg.samOkOffset.val]? ≠ some s.cfg.samOkMarker →
        sessionStep s =
          .next { t with
            rxbuf := m, rxlen := 10, st := .failed, status := 0x05, reason := 0x02, failState := .awaitRsp }) ∧
      (d[s.cfg.samOkOffset.val]? = some s.cfg.samOkMarker →
        sessionStep s =
          .next { t with
            rxbuf := m, rxlen := 10, st := .done, status := 0x00, reason := 0x00, failState := .idle })

/-- spec/42_typed_operations.md R205 to R207: the detection response. A count other than one is `NOT_FOUND`, a success; the
count test comes before the overrun test; the UID keeps the device's byte order. -/
def Obligations.DetectionResponseIsInterpreted : Prop :=
  ∀ (s : State) (R : List Byte) (rest : List PortAnswer) (k : Nat),
    s.Inv → s.st = .awaitRsp → s.op = 0x23 → ReadAnswered s (s.expLen + 1) (.readOk R) rest k →
    ResponseAccepted s.cfg (R.drop 1) →
    let d := R.drop 1
    let t := s.afterEvent (.read s.cfg.peerAddr 21 (.readOk R)) rest k
    d.length = 20 ∧ ∃ m, RxStored s R m ∧
      (d[s.cfg.nbtgOffset.val]? ≠ some 0x01 →
        sessionStep s =
          .next { t with
            rxbuf := m, rxlen := 21, st := .done, status := 0x07, reason := 0x00, failState := .idle,
            resLen := 0 }) ∧
      ∀ u : Byte, d[s.cfg.nbtgOffset.val]? = some 0x01 → d[s.cfg.uidLenOffset.val]? = some u →
        (20 < s.cfg.uidOffset.val + u.toNat →
          sessionStep s =
            .next { t with
              rxbuf := m, rxlen := 21, st := .failed, status := 0x05, reason := 0x03, failState := .awaitRsp }) ∧
        (s.cfg.uidOffset.val + u.toNat ≤ 20 →
          ∃ uid b, uid.length = u.toNat ∧ (∀ i, i < u.toNat → uid[i]? = d[s.cfg.uidOffset.val + i]?) ∧
            Memory.Holds b uid ∧
            sessionStep s =
              .next { t with
                rxbuf := m, rxlen := 21, st := .done, status := 0x00, reason := 0x00, failState := .idle,
                resLen := u.toNat, resBytes := b })

/-! ### Whole exchanges -/

/-- spec/41_session_fsm.md R156 and spec/42_typed_operations.md R200: SEND_COMMAND and START_PASSIVE_DETECTION complete with
the ack, when the device is ready at once. The response stays unread. The written payload `[CMD_INLIST, 0x01, brty]` of
START_PASSIVE_DETECTION has the order R200 takes from general knowledge: PRESUMED (log 21). -/
def Obligations.SendOnlyExchangesComplete : Prop :=
  ∀ (s : State) (b : Byte) (rest : List PortAnswer),
    s.st.quiescent = true → s.cfg.Legal → s.caller = [] →
    s.transport = [.writeOk, .readOk [0x01], goodAck b] ++ rest →
    (∀ data T, (Instr.sendCommand data T).wellFormed s.cfg = true →
      ∃ t u, exec (.sendCommand data T) s = .next t ∧ runs 3 t = .next u ∧ u.Reports .done 0x00 0x00 .idle ∧
        u.Gives false 0 [] ∧ Memory.Holds u.rxbuf (b :: ackFrame) ∧ u.transport = rest ∧
        u.history = s.history ++ sendEvents s.cfg data b) ∧
    ∀ brty, 3 ≤ s.cfg.maxPayload →
      ∃ t u, exec (.startPassiveDetection brty) s = .next t ∧ runs 3 t = .next u ∧
        u.Reports .done 0x00 0x00 .idle ∧ u.Gives false 0 [] ∧ u.transport = rest ∧
        u.history = s.history ++ sendEvents s.cfg [s.cfg.cmdInlist, 0x01, brty] b

/-- spec/41_session_fsm.md R157: TRANSCEIVE runs the whole exchange and hands back the decoded response. -/
def Obligations.TransceiveExchangeCompletes : Prop :=
  ∀ (s : State) (data d : List Byte) (n : Half) (T : Word) (b c : Byte) (rest : List PortAnswer),
    s.st.quiescent = true → s.cfg.Legal → s.caller = [] → (Instr.transceive data n T).wellFormed s.cfg = true →
    d.length = n.toNat → ResponseAccepted s.cfg d →
    s.transport = [.writeOk, .readOk [0x01], goodAck b, .readOk [0x01], .readOk (c :: d)] ++ rest →
    ∃ t u, exec (.transceive data n T) s = .next t ∧ runs 5 t = .next u ∧ u.Reports .done 0x00 0x00 .idle ∧
      u.Gives false 0 d ∧ u.rxlen = n.toNat + 1 ∧ u.transport = rest ∧
      u.history = s.history ++ sendEvents s.cfg data b ++ responseEvents s.cfg (c :: d)

/-- spec/42_typed_operations.md R190 to R192: GET_FIRMWARE_VERSION runs the whole exchange and returns the version. -/
def Obligations.FirmwareExchangeCompletes : Prop :=
  ∀ (s : State) (T : Word) (b c x y z chip major minor build : Byte) (rest : List PortAnswer),
    let d := [0x00, 0x00, 0xFF, 0x06, 0xFA, 0xD5, x, chip, major, minor, build, y, z]
    s.st.quiescent = true → s.cfg.Legal → s.caller = [] → ResponseAccepted s.cfg d →
    s.transport = [.writeOk, .readOk [0x01], goodAck b, .readOk [0x01], .readOk (c :: d)] ++ rest →
    ∃ t u, exec (.getFirmwareVersion T) s = .next t ∧ runs 5 t = .next u ∧ u.Reports .done 0x00 0x00 .idle ∧
      u.Gives false (chip ++ major ++ minor ++ build) [chip, major, minor, build] ∧ u.transport = rest ∧
      u.history = s.history ++ sendEvents s.cfg [0x02] b ++ responseEvents s.cfg (c :: d)

/-- spec/42_typed_operations.md R195: CONFIGURE_SAM runs the whole exchange and completes when the marker is right. -/
def Obligations.SamExchangeCompletes : Prop :=
  ∀ (s : State) (d : List Byte) (b c : Byte) (rest : List PortAnswer),
    s.st.quiescent = true → s.cfg.Legal → 3 ≤ s.cfg.maxPayload → s.caller = [] → d.length = 9 →
    d[s.cfg.samOkOffset.val]? = some s.cfg.samOkMarker → ResponseAccepted s.cfg d →
    s.transport = [.writeOk, .readOk [0x01], goodAck b, .readOk [0x01], .readOk (c :: d)] ++ rest →
    ∃ t u, exec .configureSam s = .next t ∧ runs 5 t = .next u ∧ u.Reports .done 0x00 0x00 .idle ∧
      u.Gives false 0 [] ∧ u.transport = rest ∧
      u.history = s.history ++ sendEvents s.cfg s.cfg.samPayload.toList b ++ responseEvents s.cfg (c :: d)

/-- spec/41_session_fsm.md R155, R158 and spec/42_typed_operations.md R205: the operations that send nothing, when the device
is ready at once. No write is issued. -/
def Obligations.ReadOnlyExchangesComplete : Prop :=
  ∀ (s : State) (d : List Byte) (c : Byte) (rest : List PortAnswer),
    s.st.quiescent = true → s.cfg.Legal → s.caller = [] → ResponseAccepted s.cfg d →
    s.transport = [.readOk [0x01], .readOk (c :: d)] ++ rest →
    (∀ T, ∃ t u, exec (.waitReady T) s = .next t ∧ runs 1 t = .next u ∧ u.Reports .done 0x00 0x00 .idle ∧
      u.Gives false 0 [] ∧ u.history = s.history ++ [.read s.cfg.peerAddr 1 (.readOk [0x01])]) ∧
    (∀ (n : Half) (T : Word), n.toNat ≤ s.cfg.rxMaxFrame → d.length = n.toNat →
      ∃ t u, exec (.readResponse n T) s = .next t ∧ runs 2 t = .next u ∧ u.Reports .done 0x00 0x00 .idle ∧
        u.Gives false 0 d ∧ u.transport = rest ∧ u.history = s.history ++ responseEvents s.cfg (c :: d)) ∧
    ∀ (T : Word) (u₀ : Byte), d.length = 20 → d[s.cfg.nbtgOffset.val]? = some 0x01 →
      d[s.cfg.uidLenOffset.val]? = some u₀ → s.cfg.uidOffset.val + u₀.toNat ≤ 20 →
      ∃ t u, exec (.readDetectedTarget T) s = .next t ∧ runs 2 t = .next u ∧ u.Reports .done 0x00 0x00 .idle ∧
        u.Gives false 0 ((d.drop s.cfg.uidOffset.val).take u₀.toNat) ∧ u.transport = rest ∧
        u.history = s.history ++ responseEvents s.cfg (c :: d)

/-- spec/41_session_fsm.md R147 (with R146): a poll loop that never sees ready ends in `TimedOut` after exactly
`ceil(T / P) + 1` reads, with one sleep between two of them; a ready byte before that ends it at that read. -/
def Obligations.PollLoopEndsWithinItsBound : Prop :=
  ∀ (s : State) (bs : List Byte) (rest : List PortAnswer),
    s.cfg.Legal → s.regsLegal = true → s.opFits = true → (s.st = .awaitReadyAck ∨ s.st = .awaitReadyRsp) →
    s.caller = [] → s.elapsed = 0 → (∀ b ∈ bs, b ≠ 0x01) →
    s.transport = bs.map (fun b => .readOk [b]) ++ rest →
    let T := s.timeout.toNat
    let P := s.cfg.pollInterval
    (bs.length = pollReads T P →
      ∃ u, runs bs.length s = .next u ∧
        u.Reports .timedOut 0x03 (if s.st = .awaitReadyAck then 0x01 else 0x02) s.st ∧
        u.elapsed = (bs.length - 1) * P ∧ T ≤ u.elapsed ∧ u.elapsed < T + P ∧ u.transport = rest ∧
        u.history = s.history ++ pollEvents s.cfg.peerAddr P bs) ∧
    ∀ rest', bs.length < pollReads T P → rest = .readOk [0x01] :: rest' →
      ∃ u, runs (bs.length + 1) s = .next u ∧
        u.st = (if s.st = .awaitReadyAck then .awaitAck else if s.op = 0x10 then .done else .awaitRsp) ∧
        u.elapsed = bs.length * P ∧ u.transport = rest' ∧
        u.history = s.history ++ pollEvents s.cfg.peerAddr P (bs ++ [0x01])

/-- spec/41_session_fsm.md R159: every accepted exchange reaches a terminal state, whatever the transport answers, with the
bounds on transactions and sleeps of the rule. -/
def Obligations.EveryExchangeTerminates : Prop :=
  ∀ (i : Instr) (s t : State), s.st.quiescent = true → s.cfg.Legal → s.caller = [] → exec i s = .next t →
    ∃ k u evs, runs k t = .next u ∧ u.st.terminal = true ∧ u.history = s.history ++ evs ∧
      (evs.filter Event.isTransaction).length ≤ 2 * pollReads t.timeout.toNat s.cfg.pollInterval + 3 ∧
      (evs.filter Event.isSleep).length ≤ 2 * ((t.timeout.toNat + s.cfg.pollInterval - 1) / s.cfg.pollInterval)

/-- spec/10_state.md R29 (and spec/42_typed_operations.md R211): an exchange depends on the request, the parameters and the
transport's answers alone. Two quiescent states that agree on those, and on what the caller does next, run alike whatever
else they hold, event for event. -/
def Obligations.ExchangeDependsOnRequestAndAnswersOnly : Prop :=
  ∀ (i : Instr) (s₁ s₂ t₁ t₂ : State), s₁.st.quiescent = true → s₂.st.quiescent = true →
    s₁.cfg = s₂.cfg → s₁.caller = [] → s₂.caller = [] → s₁.transport = s₂.transport →
    s₁.oracleCalls = s₂.oracleCalls → exec i s₁ = .next t₁ → exec i s₂ = .next t₂ →
    SameButHistory t₁ t₂ ∧
      ∀ (k : Nat) (u₁ : State), runs k t₁ = .next u₁ →
        ∃ u₂ evs, runs k t₂ = .next u₂ ∧ SameButHistory u₁ u₂ ∧ u₁.history = s₁.history ++ evs ∧
          u₂.history = s₂.history ++ evs

/-! ### Whole-machine rules -/

/-- Every step keeps the invariant. -/
def Obligations.EveryStepKeepsTheInvariant : Prop :=
  ∀ s t : State, s.Inv → step s = .next t → t.Inv

/-- From a state of the invariant the machine always has a next state: no register is out of range, no operation in a state
it does not go with (spec/41_session_fsm.md R154), no access past a buffer (spec/70_reset_and_hazards.md R269), no read of a
byte without a value (spec/10_state.md R28), no refusal. -/
def Obligations.InvariantStatesAlwaysStep : Prop :=
  ∀ s : State, s.Inv → ∃ t, step s = .next t

/-- spec/70_reset_and_hazards.md R262 (c): no step changes the parameters. -/
def Obligations.NoStepChangesTheParameters : Prop :=
  ∀ s t : State, step s = .next t → t.cfg = s.cfg

/-- spec/41_session_fsm.md R154 and spec/10_state.md R22: in a busy state `st` changes only as the transition table says. -/
def Obligations.SessionFollowsTheTransitionTable : Prop :=
  ∀ s t : State, s.st.quiescent = false → sessionStep s = .next t → s.st.canStep t.st = true

/-- spec/41_session_fsm.md R151: the quiescent states have no session step, and a terminal state is left only by a request
(or a reset). -/
def Obligations.TerminalStatesAreLeftByTheCallerOnly : Prop :=
  ∀ s t : State, s.st.quiescent = true → step s = .next t →
    (s.caller = [] → t = s) ∧ (∀ rest, s.caller = .pass :: rest → t = { s with caller := rest }) ∧
    (t.st ≠ s.st → ∃ act rest, s.caller = act :: rest ∧ act ≠ .pass)

/-- spec/41_session_fsm.md R143: `elapsed` is 0 on every entry to a poll state from another state, and the budget is the one
latched at acceptance, so each of the two loops has the whole of it. -/
def Obligations.PollLoopEntryZeroesElapsed : Prop :=
  (∀ (i : Instr) (s t : State), s.st.quiescent = true → exec i s = .next t → t.st = .awaitReadyRsp → t.elapsed = 0) ∧
    ∀ s t : State, sessionStep s = .next t →
      t.timeout = s.timeout ∧
        (t.st ≠ s.st → (t.st = .awaitReadyAck ∨ t.st = .awaitReadyRsp) → t.elapsed = 0)

/-- spec/10_state.md R25 and spec/60_exceptions.md R233, R236 to R238: a session step writes the outcome triple only when it
enters a terminal state. On an error it keeps every other register but `st`, and adds the step's transport event; `IO_ERROR` and
`TIMED_OUT` store nothing, and an error found in the bytes read leaves those bytes in `rxbuf` from index 0 on, and their number
in `rxlen`. That the bytes past a shorter read stay is the model's reading (log 10). -/
def Obligations.OutcomeIsWrittenAtTerminalEntryOnly : Prop :=
  ∀ s t : State, sessionStep s = .next t → s.st.quiescent = false →
    (t.st.quiescent = false → t.status = s.status ∧ t.reason = s.reason ∧ t.failState = s.failState) ∧
    ((t.st = .failed ∨ t.st = .timedOut) →
      t.cfg = s.cfg ∧ t.failState = s.st ∧ t.op = s.op ∧ t.timeout = s.timeout ∧ t.elapsed = s.elapsed ∧ t.expLen = s.expLen ∧
        t.txlen = s.txlen ∧ t.txbuf = s.txbuf ∧ t.resFlag = s.resFlag ∧ t.resWord = s.resWord ∧
        t.resLen = s.resLen ∧ t.resBytes = s.resBytes ∧ t.caller = s.caller ∧ t.concurrent = s.concurrent ∧
        ∃ e, t.history = s.history ++ [e] ∧
          ((t.status = 0x02 ∨ t.status = 0x03) → t.rxlen = s.rxlen ∧ t.rxbuf = s.rxbuf) ∧
          (t.status ≠ 0x02 → t.status ≠ 0x03 →
            ∃ n R, e = .read s.cfg.peerAddr n (.readOk R) ∧ t.rxlen = R.length ∧ RxStored s R t.rxbuf))

/-- spec/20_memory.md R53 and R54: a session step issues at most one transaction, of the width of its state and to the one
peer address, and sleeps only in a poll. -/
def Obligations.StepEventsHaveTheirWidths : Prop :=
  ∀ s t : State, sessionStep s = .next t →
    ∃ evs, t.history = s.history ++ evs ∧ (evs.filter Event.isTransaction).length ≤ 1 ∧ ∀ e ∈ evs, e.widthOf s

/-- spec/30_encoding.md R79 and R73: every frame a step writes is a command frame with 1 to `MAX_PAYLOAD` payload bytes and
the direction byte 0xD4. -/
def Obligations.EveryWriteIsACommandFrame : Prop :=
  ∀ s t : State, s.Inv → step s = .next t → ∀ peer B a, Event.write peer B a ∈ t.history →
    Event.write peer B a ∈ s.history ∨
      (peer = s.cfg.peerAddr ∧ ∃ P : List Byte, 1 ≤ P.length ∧ P.length ≤ s.cfg.maxPayload ∧ B = frameOf 0xD4 P)

/-- spec/41_session_fsm.md R160: the history is recorded and never read. Another history changes nothing but the history. -/
def Obligations.HistoryIsNeverRead : Prop :=
  ∀ (s : State) (h : List Event),
    (∀ t, step s = .next t →
      (∃ evs, t.history = s.history ++ evs ∧ step { s with history := h } = .next { t with history := h ++ evs }) ∨
        (t.history = [] ∧ step { s with history := h } = .next t)) ∧
    (∀ f, step s = .fault f → step { s with history := h } = .fault f) ∧
    ∀ f, step s = .refused f → step { s with history := h } = .refused f

/-- spec/30_encoding.md R83 and spec/60_exceptions.md R233: in a state of the invariant the caller reads the result record and
the diagnostic bytes exactly when the session is quiescent; the diagnostic bytes are `rxbuf[0..rxlen)`. -/
def Obligations.ResultsAreReadableWhenQuiescent : Prop :=
  ∀ s : State, s.Inv →
    (s.st.quiescent = false → s.resultRecord = none ∧ s.diagnosticBytes = none) ∧
    (s.st.quiescent = true →
      (∃ bytes, s.resultRecord = some
          { status := s.status, reason := s.reason, failState := s.failState, resFlag := s.resFlag,
            resWord := s.resWord, resLen := s.resLen, resBytes := bytes } ∧
        Memory.Holds s.resBytes bytes ∧ bytes.length = s.resLen) ∧
      ∃ rx, s.diagnosticBytes = some rx ∧ rx.length = s.rxlen ∧
        ∀ i, i < s.rxlen → rx[i]? = Memory.get s.rxbuf i)

/-- spec/60_exceptions.md R231, R232 and R239: the number of every status and of every reason, and the terminal state of
every kind. Kinds and reasons are never collapsed: `status` and `reason` tell every error apart, no error has the status of a
success, and the two successes differ. -/
def Obligations.ErrorCodesTellEveryErrorApart : Prop :=
  (∀ e₁ e₂ : Err, e₁.status = e₂.status → e₁.reason = e₂.reason → e₁ = e₂) ∧
    (∀ (e : Err) (o : Success), e.status ≠ o.status ∧ e.status ≠ statusNone ∧ o.status ≠ statusNone) ∧
    Success.ok.status ≠ Success.notFound.status ∧
    (Success.ok.status = 0x00 ∧ Success.notFound.status = 0x07 ∧ statusNone = 0xFF) ∧
    ((∀ x, (Err.invalidArgument x).status = 0x01 ∧ (Err.invalidArgument x).terminalState = .failed) ∧
      (∀ x, (Err.ioError x).status = 0x02 ∧ (Err.ioError x).terminalState = .failed) ∧
      (∀ x, (Err.timedOut x).status = 0x03 ∧ (Err.timedOut x).terminalState = .timedOut) ∧
      (Err.ackMismatch.status = 0x04 ∧ Err.ackMismatch.terminalState = .failed) ∧
      (∀ x, (Err.protocolError x).status = 0x05 ∧ (Err.protocolError x).terminalState = .failed) ∧
      ∀ x, (Err.decodeError x).status = 0x06 ∧ (Err.decodeError x).terminalState = .failed) ∧
    ((Err.invalidArgument .unknownOperation).reason = 0x01 ∧ (Err.invalidArgument .dataTooLong).reason = 0x02 ∧
      (Err.invalidArgument .payloadEmpty).reason = 0x03 ∧ (Err.invalidArgument .payloadTooLong).reason = 0x04 ∧
      (Err.invalidArgument .expLenTooLarge).reason = 0x05 ∧ (Err.invalidArgument .badAckLength).reason = 0x06) ∧
    ((Err.ioError .writeFailed).reason = 0x01 ∧ (Err.ioError .readyReadFailed).reason = 0x02 ∧
      (Err.ioError .ackReadFailed).reason = 0x03 ∧ (Err.ioError .rspReadFailed).reason = 0x04) ∧
    ((Err.timedOut .forAck).reason = 0x01 ∧ (Err.timedOut .forResponse).reason = 0x02) ∧
    Err.ackMismatch.reason = 0x00 ∧
    ((Err.protocolError .unexpectedHeader).reason = 0x01 ∧ (Err.protocolError .configRejected).reason = 0x02 ∧
      (Err.protocolError .uidOverrun).reason = 0x03) ∧
    (Err.decodeError .lengthMismatch).reason = 0x01 ∧ (Err.decodeError .truncated).reason = 0x02 ∧
    (Err.decodeError .badStartCode).reason = 0x03 ∧ (Err.decodeError .badLengthChecksum).reason = 0x04 ∧
    (Err.decodeError .badLength).reason = 0x05 ∧ (Err.decodeError .badDirection).reason = 0x06 ∧
    (Err.decodeError .badDataChecksum).reason = 0x07 ∧ (Err.decodeError .badPostamble).reason = 0x08
end

