-- ==== Sys2Proof/Laws/Decode.lean ====
section
/-! SUPPORT. The select map read both ways (spec/30_encoding.md R72). -/

namespace Sys2Proof

theorem Op.code_injective {o o' : Op} (h : o.code = o'.code) : o = o' := by
  cases o <;> cases o' <;> first | rfl | exact absurd h (by decide)

@[simp] theorem Op.ofCode_code (o : Op) : Op.ofCode o.code = some o := by cases o <;> rfl

theorem Op.mem_all (o : Op) : o ∈ Op.all := by cases o <;> decide

/-- All 8 bits are compared. -/
theorem and_opselMask (b : Byte) : b &&& opselMask = b := by
  have : opselMask = BitVec.allOnes 8 := rfl
  rw [this, BitVec.and_allOnes]

theorem Op.ofCode_eq_some {b : Byte} {o : Op} : Op.ofCode b = some o ↔ b = o.code := by
  constructor
  · intro h
    have := List.find?_some h
    rwa [and_opselMask, beq_iff_eq] at this
  · rintro rfl
    exact Op.ofCode_code o

theorem Op.ofCode_eq_none {b : Byte} : Op.ofCode b = none ↔ ∀ o : Op, b ≠ o.code := by
  constructor
  · intro h o ho
    rw [Op.ofCode_eq_some.2 ho] at h
    exact absurd h (by simp)
  · intro h
    cases hc : Op.ofCode b with
    | none => rfl
    | some o => exact absurd (Op.ofCode_eq_some.1 hc) (h o)

/-- All the decoder can answer. -/
theorem decode_cases (r : Request) :
    (∃ o : Op, r.opsel = o.code ∧ decode r = .ok (o.instr r)) ∨
      ((∀ o : Op, r.opsel ≠ o.code) ∧ decode r = .error (.reservedOpsel r.opsel)) := by
  unfold decode
  cases hc : Op.ofCode r.opsel with
  | some o => exact .inl ⟨o, Op.ofCode_eq_some.1 hc, rfl⟩
  | none => exact .inr ⟨Op.ofCode_eq_none.1 hc, rfl⟩

@[simp] theorem Op.instr_op (r : Request) (o : Op) : (o.instr r).op = o := by cases o <;> rfl

/-- An operation that sends or polls is no pure codec operation. -/
theorem Op.sends_not_pureCodec {o : Op} (h : o.sends = true) : o.pureCodec = false := by
  cases o <;> first | rfl | exact absurd h (by decide)

/-- Whatever can be in progress in `AwaitRsp` polled for it. -/
theorem Op.afterReady_of_readsResponse {o : Op} (h : o.readsResponse = true) : o.afterReady = some .readResponse := by
  cases o <;> first | rfl | exact absurd h (by decide)

end Sys2Proof
end

