-- ==== Sys2Proof/Laws/Frame.lean ====
section
/-! SUPPORT. The laws of the checksum and of the frame functions: one lemma per function says all it can answer. -/

namespace Sys2Proof.Machine

/-! ### Checksums (spec/00_scope.md R10) -/

@[simp] theorem sum8_nil : sum8 [] = 0 := rfl

@[simp] theorem sum8_cons (b : Byte) (S : List Byte) : sum8 (b :: S) = b + sum8 S := by
  apply BitVec.eq_of_toNat_eq
  simp [sum8, BitVec.toNat_add, BitVec.toNat_ofNat, Nat.add_mod]

@[simp] theorem sum8_append (S T : List Byte) : sum8 (S ++ T) = sum8 S + sum8 T := by
  induction S with
  | nil => simp
  | cons b S ih => simp [ih, BitVec.add_assoc]

/-- The two's complement is the additive inverse. -/
theorem neg8_eq_neg (x : Byte) : neg8 x = -x := by
  unfold neg8
  exact (BitVec.neg_eq_not_add x).symm

@[simp] theorem add_neg8 (x : Byte) : x + neg8 x = 0 := by
  rw [neg8_eq_neg]
  exact BitVec.add_right_neg x

/-- The value of the two's complement in exact arithmetic. -/
theorem neg8_toNat (x : Byte) : (neg8 x).toNat = (256 - x.toNat) % 256 := by
  rw [neg8_eq_neg]
  exact BitVec.toNat_neg x

/-- A byte that makes a sum vanish is the two's complement of the rest. -/
theorem add_eq_zero_iff_eq_neg8 (x c : Byte) : x + c = 0 ↔ c = neg8 x := by
  constructor
  · intro h
    rw [neg8_eq_neg]
    bv_omega
  · rintro rfl
    exact add_neg8 x

/-- The checksum test, in exact arithmetic (spec/40_codec.md R103). -/
theorem sum8_add_eq_zero_iff (S : List Byte) (c : Byte) :
    sum8 S + c = 0 ↔ ((S.map BitVec.toNat).sum + c.toNat) % 256 = 0 := by
  rw [← BitVec.toNat_inj]
  simp [sum8, BitVec.toNat_add, BitVec.toNat_ofNat, Nat.add_mod]

/-! ### Slices and bytes (spec/00_scope.md R9) -/

theorem slice_length {B : List Byte} {i j : Nat} (h : j ≤ B.length) : (slice B i j).length = j - i := by
  simp only [slice, List.length_take, List.length_drop]; omega

theorem slice_getElem? (B : List Byte) (i j k : Nat) (h : k < j - i) : (slice B i j)[k]? = B[i + k]? := by
  rw [slice, List.getElem?_take_of_lt h, List.getElem?_drop]

/-- The bytes after the first, all of them. -/
theorem slice_one_all {B : List Byte} {n : Nat} (h : B.length = n + 1) : slice B 1 (n + 1) = B.drop 1 := by
  rw [slice, List.take_of_length_le]
  simp only [List.length_drop]; omega

theorem byteAt_eq {B : List Byte} {i : Nat} {b : Byte} (h : B[i]? = some b) : byteAt B i = b := by
  simp [byteAt, h]

theorem getElem?_of_byteAt {B : List Byte} {i : Nat} (h : i < B.length) : B[i]? = some (byteAt B i) := by
  simp [byteAt, h]

/-! ### The functions -/

@[simp] theorem frameOf_length (t : Byte) (D : List Byte) : (frameOf t D).length = D.length + 8 := by
  simp [frameOf, startCode]

/-- All `encodeFrame` can answer (spec/40_codec.md R105). -/
theorem encodeFrame_cases (maxPayload : Nat) (P : List Byte) :
    (P.length = 0 ∧ encodeFrame maxPayload P = .error .payloadEmpty) ∨
      (P.length ≠ 0 ∧ maxPayload < P.length ∧ encodeFrame maxPayload P = .error .payloadTooLong) ∨
      (1 ≤ P.length ∧ P.length ≤ maxPayload ∧ encodeFrame maxPayload P = .ok (frameOf tfiCommand P)) := by
  unfold encodeFrame
  by_cases h0 : P.length = 0
  · exact .inl ⟨h0, if_pos h0⟩
  · rw [if_neg h0]
    by_cases h1 : P.length > maxPayload
    · exact .inr (.inl ⟨h0, h1, if_pos h1⟩)
    · exact .inr (.inr ⟨Nat.one_le_iff_ne_zero.2 h0, not_lt.1 h1, if_neg h1⟩)

theorem encodeFrame_ok {maxPayload : Nat} {P : List Byte} (h0 : 1 ≤ P.length) (h1 : P.length ≤ maxPayload) :
    encodeFrame maxPayload P = .ok (frameOf tfiCommand P) := by
  unfold encodeFrame
  rw [if_neg (by omega), if_neg (by omega)]

/-- The ack validator looks at the six bytes after the first (spec/40_codec.md R110). -/
theorem ackMatches_iff {B : List Byte} (h : B.length = 7) : ackMatches B = true ↔ B.drop 1 = ackFrame := by
  rw [ackMatches, beq_iff_eq, slice_one_all h]

/-- The frame check never reports a length mismatch: that is `unframeResponse`'s own error. -/
theorem frameCheck_ne_lengthMismatch (F : List Byte) (t : Byte) : frameCheck F t ≠ .error .lengthMismatch := by
  unfold frameCheck
  dsimp only
  repeat' split
  all_goals simp

/-- The frame check past the start code, with the length field's two bytes named (spec/40_codec.md R120). -/
theorem frameCheck_of_start {F : List Byte} {t L C : Byte} (h3 : F.take 3 = startCode) (hL : F[3]? = some L)
    (hC : F[4]? = some C) :
    frameCheck F t =
      if L + C ≠ 0 then .error .badLengthChecksum
      else if L.toNat = 0 then .error .badLength
      else if F.length < L.toNat + 7 then .error .truncated
      else if byteAt F 5 ≠ t then .error .badDirection
      else if sum8 ((F.drop 5).take L.toNat) + byteAt F (5 + L.toNat) ≠ 0 then .error .badDataChecksum
      else if byteAt F (6 + L.toNat) ≠ postamble then .error .badPostamble
      else .ok () := by
  have h5 := (List.getElem?_eq_some_iff.1 hC).1
  have hs : slice F 0 3 = startCode := by simpa [slice] using h3
  have hd : slice F 5 (5 + L.toNat) = (F.drop 5).take L.toNat := by simp [slice]
  rw [frameCheck]
  dsimp only
  rw [if_neg (by omega), hs, if_neg (by simp), byteAt_eq hL, byteAt_eq hC, hd]

/-- A frame that passes has a length byte (spec/40_codec.md R120). -/
theorem five_le_of_frameCheck_ok {F : List Byte} {t : Byte} (h : frameCheck F t = .ok ()) : 5 ≤ F.length := by
  by_contra hlt
  rw [frameCheck] at h
  simp only [show F.length < 5 by omega, if_true] at h
  exact absurd h (by simp)

/-- The frame check does not look past the frame's postamble, so the tail after a good frame is ignored. -/
theorem frameCheck_append {t : Byte} {D : List Byte} (tail : List Byte) (h : D.length ≤ 254) :
    frameCheck (frameOf t D ++ tail) t = .ok () := by
  have hL : (BitVec.ofNat 8 (D.length + 1)).toNat = D.length + 1 := by
    rw [BitVec.toNat_ofNat]; omega
  have hne : D.length + 1 ≠ 0 := by omega
  have h3 : byteAt (frameOf t D ++ tail) 3 = BitVec.ofNat 8 (D.length + 1) := rfl
  have h4 : byteAt (frameOf t D ++ tail) 4 = csum [BitVec.ofNat 8 (D.length + 1)] := rfl
  have h5 : byteAt (frameOf t D ++ tail) 5 = t := rfl
  have h0 : slice (frameOf t D ++ tail) 0 3 = startCode := rfl
  have hs : slice (frameOf t D ++ tail) 5 (5 + (D.length + 1)) = t :: D := by
    simp [slice, frameOf, startCode]
  have h6 : byteAt (frameOf t D ++ tail) (5 + (D.length + 1)) = csum (t :: D) := by
    simp [byteAt, frameOf, startCode, show 5 + (D.length + 1) = D.length + 6 by omega]
  have h7 : byteAt (frameOf t D ++ tail) (6 + (D.length + 1)) = postamble := by
    simp [byteAt, frameOf, startCode, show 6 + (D.length + 1) = D.length + 1 + 6 by omega]
  unfold frameCheck
  simp only [h0, h3, h4, h5, hL, hs, h6, h7, List.length_append, frameOf_length]
  simp [csum, show ¬ (D.length + 8 + tail.length < 5) by omega,
    show ¬ (D.length + 8 + tail.length < D.length + 1 + 7) by omega]

/-- All `unframeResponse` can answer (spec/40_codec.md R115). -/
theorem unframeResponse_cases (verify : Bool) (B : List Byte) (n : Nat) :
    (B.length ≠ n + 1 ∧ unframeResponse verify B n = .error .lengthMismatch) ∨
      (B.length = n + 1 ∧ (verify = false ∨ frameCheck (B.drop 1) tfiResponse = .ok ()) ∧
        unframeResponse verify B n = .ok (B.drop 1)) ∨
      (B.length = n + 1 ∧ verify = true ∧ ∃ x, frameCheck (B.drop 1) tfiResponse = .error x ∧
        unframeResponse verify B n = .error x) := by
  unfold unframeResponse
  by_cases h : B.length = n + 1
  · rw [if_neg (not_not.2 h), slice_one_all h]
    cases verify with
    | false => exact .inr (.inl ⟨h, .inl rfl, rfl⟩)
    | true =>
      cases hc : frameCheck (B.drop 1) tfiResponse with
      | ok u => exact .inr (.inl ⟨h, .inr rfl, rfl⟩)
      | error x => exact .inr (.inr ⟨h, rfl, x, rfl, rfl⟩)
  · exact .inl ⟨h, if_pos h⟩

end Sys2Proof.Machine
end

