-- ==== Sys2Proof/Laws/State.lean ====
section
/-! SUPPORT. What each update of the state does to each field: one lemma per field per update, true by rfl. The calls of the
Transport Port change `history`, `transport` and `oracleCalls` only. -/

namespace Sys2Proof.Machine

/-! ### raise -/

@[simp] theorem State.raise_cfg (e : Err) (s : State) : (s.raise e).cfg = s.cfg := rfl
@[simp] theorem State.raise_st (e : Err) (s : State) : (s.raise e).st = e.terminalState := rfl
@[simp] theorem State.raise_op (e : Err) (s : State) : (s.raise e).op = s.op := rfl
@[simp] theorem State.raise_timeout (e : Err) (s : State) : (s.raise e).timeout = s.timeout := rfl
@[simp] theorem State.raise_elapsed (e : Err) (s : State) : (s.raise e).elapsed = s.elapsed := rfl
@[simp] theorem State.raise_expLen (e : Err) (s : State) : (s.raise e).expLen = s.expLen := rfl
@[simp] theorem State.raise_txlen (e : Err) (s : State) : (s.raise e).txlen = s.txlen := rfl
@[simp] theorem State.raise_rxlen (e : Err) (s : State) : (s.raise e).rxlen = s.rxlen := rfl
@[simp] theorem State.raise_status (e : Err) (s : State) : (s.raise e).status = e.status := rfl
@[simp] theorem State.raise_reason (e : Err) (s : State) : (s.raise e).reason = e.reason := rfl
@[simp] theorem State.raise_failState (e : Err) (s : State) : (s.raise e).failState = if s.st.quiescent then .idle else s.st := rfl
@[simp] theorem State.raise_resFlag (e : Err) (s : State) : (s.raise e).resFlag = s.resFlag := rfl
@[simp] theorem State.raise_resWord (e : Err) (s : State) : (s.raise e).resWord = s.resWord := rfl
@[simp] theorem State.raise_resLen (e : Err) (s : State) : (s.raise e).resLen = s.resLen := rfl
@[simp] theorem State.raise_txbuf (e : Err) (s : State) : (s.raise e).txbuf = s.txbuf := rfl
@[simp] theorem State.raise_rxbuf (e : Err) (s : State) : (s.raise e).rxbuf = s.rxbuf := rfl
@[simp] theorem State.raise_resBytes (e : Err) (s : State) : (s.raise e).resBytes = s.resBytes := rfl
@[simp] theorem State.raise_history (e : Err) (s : State) : (s.raise e).history = s.history := rfl
@[simp] theorem State.raise_concurrent (e : Err) (s : State) : (s.raise e).concurrent = s.concurrent := rfl
@[simp] theorem State.raise_caller (e : Err) (s : State) : (s.raise e).caller = s.caller := rfl
@[simp] theorem State.raise_transport (e : Err) (s : State) : (s.raise e).transport = s.transport := rfl
@[simp] theorem State.raise_oracleCalls (e : Err) (s : State) : (s.raise e).oracleCalls = s.oracleCalls := rfl

/-! ### finishWord -/

@[simp] theorem State.finishWord_cfg (o : Success) (r : Results) (s : State) : (s.finishWord o r).cfg = s.cfg := rfl
@[simp] theorem State.finishWord_st (o : Success) (r : Results) (s : State) : (s.finishWord o r).st = .done := rfl
@[simp] theorem State.finishWord_op (o : Success) (r : Results) (s : State) : (s.finishWord o r).op = s.op := rfl
@[simp] theorem State.finishWord_timeout (o : Success) (r : Results) (s : State) : (s.finishWord o r).timeout = s.timeout := rfl
@[simp] theorem State.finishWord_elapsed (o : Success) (r : Results) (s : State) : (s.finishWord o r).elapsed = s.elapsed := rfl
@[simp] theorem State.finishWord_expLen (o : Success) (r : Results) (s : State) : (s.finishWord o r).expLen = s.expLen := rfl
@[simp] theorem State.finishWord_txlen (o : Success) (r : Results) (s : State) : (s.finishWord o r).txlen = s.txlen := rfl
@[simp] theorem State.finishWord_rxlen (o : Success) (r : Results) (s : State) : (s.finishWord o r).rxlen = s.rxlen := rfl
@[simp] theorem State.finishWord_status (o : Success) (r : Results) (s : State) : (s.finishWord o r).status = o.status := rfl
@[simp] theorem State.finishWord_reason (o : Success) (r : Results) (s : State) : (s.finishWord o r).reason = 0x00#8 := rfl
@[simp] theorem State.finishWord_failState (o : Success) (r : Results) (s : State) : (s.finishWord o r).failState = .idle := rfl
@[simp] theorem State.finishWord_resFlag (o : Success) (r : Results) (s : State) : (s.finishWord o r).resFlag = r.flag.getD s.resFlag := rfl
@[simp] theorem State.finishWord_resWord (o : Success) (r : Results) (s : State) : (s.finishWord o r).resWord = r.word.getD s.resWord := rfl
@[simp] theorem State.finishWord_resLen (o : Success) (r : Results) (s : State) : (s.finishWord o r).resLen = s.resLen := rfl
@[simp] theorem State.finishWord_txbuf (o : Success) (r : Results) (s : State) : (s.finishWord o r).txbuf = s.txbuf := rfl
@[simp] theorem State.finishWord_rxbuf (o : Success) (r : Results) (s : State) : (s.finishWord o r).rxbuf = s.rxbuf := rfl
@[simp] theorem State.finishWord_resBytes (o : Success) (r : Results) (s : State) : (s.finishWord o r).resBytes = s.resBytes := rfl
@[simp] theorem State.finishWord_history (o : Success) (r : Results) (s : State) : (s.finishWord o r).history = s.history := rfl
@[simp] theorem State.finishWord_concurrent (o : Success) (r : Results) (s : State) : (s.finishWord o r).concurrent = s.concurrent := rfl
@[simp] theorem State.finishWord_caller (o : Success) (r : Results) (s : State) : (s.finishWord o r).caller = s.caller := rfl
@[simp] theorem State.finishWord_transport (o : Success) (r : Results) (s : State) : (s.finishWord o r).transport = s.transport := rfl
@[simp] theorem State.finishWord_oracleCalls (o : Success) (r : Results) (s : State) : (s.finishWord o r).oracleCalls = s.oracleCalls := rfl

/-! ### withResultBytes -/

@[simp] theorem State.withResultBytes_cfg (m : Memory) (n : Nat) (s : State) : (s.withResultBytes m n).cfg = s.cfg := rfl
@[simp] theorem State.withResultBytes_st (m : Memory) (n : Nat) (s : State) : (s.withResultBytes m n).st = s.st := rfl
@[simp] theorem State.withResultBytes_op (m : Memory) (n : Nat) (s : State) : (s.withResultBytes m n).op = s.op := rfl
@[simp] theorem State.withResultBytes_timeout (m : Memory) (n : Nat) (s : State) : (s.withResultBytes m n).timeout = s.timeout := rfl
@[simp] theorem State.withResultBytes_elapsed (m : Memory) (n : Nat) (s : State) : (s.withResultBytes m n).elapsed = s.elapsed := rfl
@[simp] theorem State.withResultBytes_expLen (m : Memory) (n : Nat) (s : State) : (s.withResultBytes m n).expLen = s.expLen := rfl
@[simp] theorem State.withResultBytes_txlen (m : Memory) (n : Nat) (s : State) : (s.withResultBytes m n).txlen = s.txlen := rfl
@[simp] theorem State.withResultBytes_rxlen (m : Memory) (n : Nat) (s : State) : (s.withResultBytes m n).rxlen = s.rxlen := rfl
@[simp] theorem State.withResultBytes_status (m : Memory) (n : Nat) (s : State) : (s.withResultBytes m n).status = s.status := rfl
@[simp] theorem State.withResultBytes_reason (m : Memory) (n : Nat) (s : State) : (s.withResultBytes m n).reason = s.reason := rfl
@[simp] theorem State.withResultBytes_failState (m : Memory) (n : Nat) (s : State) : (s.withResultBytes m n).failState = s.failState := rfl
@[simp] theorem State.withResultBytes_resFlag (m : Memory) (n : Nat) (s : State) : (s.withResultBytes m n).resFlag = s.resFlag := rfl
@[simp] theorem State.withResultBytes_resWord (m : Memory) (n : Nat) (s : State) : (s.withResultBytes m n).resWord = s.resWord := rfl
@[simp] theorem State.withResultBytes_resLen (m : Memory) (n : Nat) (s : State) : (s.withResultBytes m n).resLen = n := rfl
@[simp] theorem State.withResultBytes_txbuf (m : Memory) (n : Nat) (s : State) : (s.withResultBytes m n).txbuf = s.txbuf := rfl
@[simp] theorem State.withResultBytes_rxbuf (m : Memory) (n : Nat) (s : State) : (s.withResultBytes m n).rxbuf = s.rxbuf := rfl
@[simp] theorem State.withResultBytes_resBytes (m : Memory) (n : Nat) (s : State) : (s.withResultBytes m n).resBytes = m := rfl
@[simp] theorem State.withResultBytes_history (m : Memory) (n : Nat) (s : State) : (s.withResultBytes m n).history = s.history := rfl
@[simp] theorem State.withResultBytes_concurrent (m : Memory) (n : Nat) (s : State) : (s.withResultBytes m n).concurrent = s.concurrent := rfl
@[simp] theorem State.withResultBytes_caller (m : Memory) (n : Nat) (s : State) : (s.withResultBytes m n).caller = s.caller := rfl
@[simp] theorem State.withResultBytes_transport (m : Memory) (n : Nat) (s : State) : (s.withResultBytes m n).transport = s.transport := rfl
@[simp] theorem State.withResultBytes_oracleCalls (m : Memory) (n : Nat) (s : State) : (s.withResultBytes m n).oracleCalls = s.oracleCalls := rfl

/-! ### log -/

@[simp] theorem State.log_cfg (e : Event) (s : State) : (s.log e).cfg = s.cfg := rfl
@[simp] theorem State.log_st (e : Event) (s : State) : (s.log e).st = s.st := rfl
@[simp] theorem State.log_op (e : Event) (s : State) : (s.log e).op = s.op := rfl
@[simp] theorem State.log_timeout (e : Event) (s : State) : (s.log e).timeout = s.timeout := rfl
@[simp] theorem State.log_elapsed (e : Event) (s : State) : (s.log e).elapsed = s.elapsed := rfl
@[simp] theorem State.log_expLen (e : Event) (s : State) : (s.log e).expLen = s.expLen := rfl
@[simp] theorem State.log_txlen (e : Event) (s : State) : (s.log e).txlen = s.txlen := rfl
@[simp] theorem State.log_rxlen (e : Event) (s : State) : (s.log e).rxlen = s.rxlen := rfl
@[simp] theorem State.log_status (e : Event) (s : State) : (s.log e).status = s.status := rfl
@[simp] theorem State.log_reason (e : Event) (s : State) : (s.log e).reason = s.reason := rfl
@[simp] theorem State.log_failState (e : Event) (s : State) : (s.log e).failState = s.failState := rfl
@[simp] theorem State.log_resFlag (e : Event) (s : State) : (s.log e).resFlag = s.resFlag := rfl
@[simp] theorem State.log_resWord (e : Event) (s : State) : (s.log e).resWord = s.resWord := rfl
@[simp] theorem State.log_resLen (e : Event) (s : State) : (s.log e).resLen = s.resLen := rfl
@[simp] theorem State.log_txbuf (e : Event) (s : State) : (s.log e).txbuf = s.txbuf := rfl
@[simp] theorem State.log_rxbuf (e : Event) (s : State) : (s.log e).rxbuf = s.rxbuf := rfl
@[simp] theorem State.log_resBytes (e : Event) (s : State) : (s.log e).resBytes = s.resBytes := rfl
@[simp] theorem State.log_history (e : Event) (s : State) : (s.log e).history = s.history ++ [e] := rfl
@[simp] theorem State.log_concurrent (e : Event) (s : State) : (s.log e).concurrent = s.concurrent := rfl
@[simp] theorem State.log_caller (e : Event) (s : State) : (s.log e).caller = s.caller := rfl
@[simp] theorem State.log_transport (e : Event) (s : State) : (s.log e).transport = s.transport := rfl
@[simp] theorem State.log_oracleCalls (e : Event) (s : State) : (s.log e).oracleCalls = s.oracleCalls := rfl

/-! ### sleepOnce -/

@[simp] theorem State.sleepOnce_cfg (s : State) : (s.sleepOnce).cfg = s.cfg := rfl
@[simp] theorem State.sleepOnce_st (s : State) : (s.sleepOnce).st = s.st := rfl
@[simp] theorem State.sleepOnce_op (s : State) : (s.sleepOnce).op = s.op := rfl
@[simp] theorem State.sleepOnce_timeout (s : State) : (s.sleepOnce).timeout = s.timeout := rfl
@[simp] theorem State.sleepOnce_elapsed (s : State) : (s.sleepOnce).elapsed = s.elapsed + s.cfg.pollInterval := rfl
@[simp] theorem State.sleepOnce_expLen (s : State) : (s.sleepOnce).expLen = s.expLen := rfl
@[simp] theorem State.sleepOnce_txlen (s : State) : (s.sleepOnce).txlen = s.txlen := rfl
@[simp] theorem State.sleepOnce_rxlen (s : State) : (s.sleepOnce).rxlen = s.rxlen := rfl
@[simp] theorem State.sleepOnce_status (s : State) : (s.sleepOnce).status = s.status := rfl
@[simp] theorem State.sleepOnce_reason (s : State) : (s.sleepOnce).reason = s.reason := rfl
@[simp] theorem State.sleepOnce_failState (s : State) : (s.sleepOnce).failState = s.failState := rfl
@[simp] theorem State.sleepOnce_resFlag (s : State) : (s.sleepOnce).resFlag = s.resFlag := rfl
@[simp] theorem State.sleepOnce_resWord (s : State) : (s.sleepOnce).resWord = s.resWord := rfl
@[simp] theorem State.sleepOnce_resLen (s : State) : (s.sleepOnce).resLen = s.resLen := rfl
@[simp] theorem State.sleepOnce_txbuf (s : State) : (s.sleepOnce).txbuf = s.txbuf := rfl
@[simp] theorem State.sleepOnce_rxbuf (s : State) : (s.sleepOnce).rxbuf = s.rxbuf := rfl
@[simp] theorem State.sleepOnce_resBytes (s : State) : (s.sleepOnce).resBytes = s.resBytes := rfl
@[simp] theorem State.sleepOnce_history (s : State) : (s.sleepOnce).history = s.history ++ [.sleep s.cfg.pollInterval] := rfl
@[simp] theorem State.sleepOnce_concurrent (s : State) : (s.sleepOnce).concurrent = s.concurrent := rfl
@[simp] theorem State.sleepOnce_caller (s : State) : (s.sleepOnce).caller = s.caller := rfl
@[simp] theorem State.sleepOnce_transport (s : State) : (s.sleepOnce).transport = s.transport := rfl
@[simp] theorem State.sleepOnce_oracleCalls (s : State) : (s.sleepOnce).oracleCalls = s.oracleCalls := rfl

/-! ### enterPoll -/

@[simp] theorem State.enterPoll_cfg (t : St) (s : State) : (s.enterPoll t).cfg = s.cfg := rfl
@[simp] theorem State.enterPoll_st (t : St) (s : State) : (s.enterPoll t).st = t := rfl
@[simp] theorem State.enterPoll_op (t : St) (s : State) : (s.enterPoll t).op = s.op := rfl
@[simp] theorem State.enterPoll_timeout (t : St) (s : State) : (s.enterPoll t).timeout = s.timeout := rfl
@[simp] theorem State.enterPoll_elapsed (t : St) (s : State) : (s.enterPoll t).elapsed = 0 := rfl
@[simp] theorem State.enterPoll_expLen (t : St) (s : State) : (s.enterPoll t).expLen = s.expLen := rfl
@[simp] theorem State.enterPoll_txlen (t : St) (s : State) : (s.enterPoll t).txlen = s.txlen := rfl
@[simp] theorem State.enterPoll_rxlen (t : St) (s : State) : (s.enterPoll t).rxlen = s.rxlen := rfl
@[simp] theorem State.enterPoll_status (t : St) (s : State) : (s.enterPoll t).status = s.status := rfl
@[simp] theorem State.enterPoll_reason (t : St) (s : State) : (s.enterPoll t).reason = s.reason := rfl
@[simp] theorem State.enterPoll_failState (t : St) (s : State) : (s.enterPoll t).failState = s.failState := rfl
@[simp] theorem State.enterPoll_resFlag (t : St) (s : State) : (s.enterPoll t).resFlag = s.resFlag := rfl
@[simp] theorem State.enterPoll_resWord (t : St) (s : State) : (s.enterPoll t).resWord = s.resWord := rfl
@[simp] theorem State.enterPoll_resLen (t : St) (s : State) : (s.enterPoll t).resLen = s.resLen := rfl
@[simp] theorem State.enterPoll_txbuf (t : St) (s : State) : (s.enterPoll t).txbuf = s.txbuf := rfl
@[simp] theorem State.enterPoll_rxbuf (t : St) (s : State) : (s.enterPoll t).rxbuf = s.rxbuf := rfl
@[simp] theorem State.enterPoll_resBytes (t : St) (s : State) : (s.enterPoll t).resBytes = s.resBytes := rfl
@[simp] theorem State.enterPoll_history (t : St) (s : State) : (s.enterPoll t).history = s.history := rfl
@[simp] theorem State.enterPoll_concurrent (t : St) (s : State) : (s.enterPoll t).concurrent = s.concurrent := rfl
@[simp] theorem State.enterPoll_caller (t : St) (s : State) : (s.enterPoll t).caller = s.caller := rfl
@[simp] theorem State.enterPoll_transport (t : St) (s : State) : (s.enterPoll t).transport = s.transport := rfl
@[simp] theorem State.enterPoll_oracleCalls (t : St) (s : State) : (s.enterPoll t).oracleCalls = s.oracleCalls := rfl

/-! ### clearForAccept -/

@[simp] theorem State.clearForAccept_cfg (op : Byte) (s : State) : (s.clearForAccept op).cfg = s.cfg := rfl
@[simp] theorem State.clearForAccept_st (op : Byte) (s : State) : (s.clearForAccept op).st = s.st := rfl
@[simp] theorem State.clearForAccept_op (op : Byte) (s : State) : (s.clearForAccept op).op = op := rfl
@[simp] theorem State.clearForAccept_timeout (op : Byte) (s : State) : (s.clearForAccept op).timeout = 0#32 := rfl
@[simp] theorem State.clearForAccept_elapsed (op : Byte) (s : State) : (s.clearForAccept op).elapsed = 0 := rfl
@[simp] theorem State.clearForAccept_expLen (op : Byte) (s : State) : (s.clearForAccept op).expLen = 0 := rfl
@[simp] theorem State.clearForAccept_txlen (op : Byte) (s : State) : (s.clearForAccept op).txlen = 0 := rfl
@[simp] theorem State.clearForAccept_rxlen (op : Byte) (s : State) : (s.clearForAccept op).rxlen = 0 := rfl
@[simp] theorem State.clearForAccept_status (op : Byte) (s : State) : (s.clearForAccept op).status = statusNone := rfl
@[simp] theorem State.clearForAccept_reason (op : Byte) (s : State) : (s.clearForAccept op).reason = 0x00#8 := rfl
@[simp] theorem State.clearForAccept_failState (op : Byte) (s : State) : (s.clearForAccept op).failState = .idle := rfl
@[simp] theorem State.clearForAccept_resFlag (op : Byte) (s : State) : (s.clearForAccept op).resFlag = false := rfl
@[simp] theorem State.clearForAccept_resWord (op : Byte) (s : State) : (s.clearForAccept op).resWord = 0#32 := rfl
@[simp] theorem State.clearForAccept_resLen (op : Byte) (s : State) : (s.clearForAccept op).resLen = 0 := rfl
@[simp] theorem State.clearForAccept_txbuf (op : Byte) (s : State) : (s.clearForAccept op).txbuf = [] := rfl
@[simp] theorem State.clearForAccept_rxbuf (op : Byte) (s : State) : (s.clearForAccept op).rxbuf = [] := rfl
@[simp] theorem State.clearForAccept_resBytes (op : Byte) (s : State) : (s.clearForAccept op).resBytes = [] := rfl
@[simp] theorem State.clearForAccept_history (op : Byte) (s : State) : (s.clearForAccept op).history = s.history := rfl
@[simp] theorem State.clearForAccept_concurrent (op : Byte) (s : State) : (s.clearForAccept op).concurrent = s.concurrent := rfl
@[simp] theorem State.clearForAccept_caller (op : Byte) (s : State) : (s.clearForAccept op).caller = s.caller := rfl
@[simp] theorem State.clearForAccept_transport (op : Byte) (s : State) : (s.clearForAccept op).transport = s.transport := rfl
@[simp] theorem State.clearForAccept_oracleCalls (op : Byte) (s : State) : (s.clearForAccept op).oracleCalls = s.oracleCalls := rfl

/-! ### markConcurrent -/

@[simp] theorem State.markConcurrent_cfg (s : State) : (s.markConcurrent).cfg = s.cfg := rfl
@[simp] theorem State.markConcurrent_st (s : State) : (s.markConcurrent).st = s.st := rfl
@[simp] theorem State.markConcurrent_op (s : State) : (s.markConcurrent).op = s.op := rfl
@[simp] theorem State.markConcurrent_timeout (s : State) : (s.markConcurrent).timeout = s.timeout := rfl
@[simp] theorem State.markConcurrent_elapsed (s : State) : (s.markConcurrent).elapsed = s.elapsed := rfl
@[simp] theorem State.markConcurrent_expLen (s : State) : (s.markConcurrent).expLen = s.expLen := rfl
@[simp] theorem State.markConcurrent_txlen (s : State) : (s.markConcurrent).txlen = s.txlen := rfl
@[simp] theorem State.markConcurrent_rxlen (s : State) : (s.markConcurrent).rxlen = s.rxlen := rfl
@[simp] theorem State.markConcurrent_status (s : State) : (s.markConcurrent).status = s.status := rfl
@[simp] theorem State.markConcurrent_reason (s : State) : (s.markConcurrent).reason = s.reason := rfl
@[simp] theorem State.markConcurrent_failState (s : State) : (s.markConcurrent).failState = s.failState := rfl
@[simp] theorem State.markConcurrent_resFlag (s : State) : (s.markConcurrent).resFlag = s.resFlag := rfl
@[simp] theorem State.markConcurrent_resWord (s : State) : (s.markConcurrent).resWord = s.resWord := rfl
@[simp] theorem State.markConcurrent_resLen (s : State) : (s.markConcurrent).resLen = s.resLen := rfl
@[simp] theorem State.markConcurrent_txbuf (s : State) : (s.markConcurrent).txbuf = s.txbuf := rfl
@[simp] theorem State.markConcurrent_rxbuf (s : State) : (s.markConcurrent).rxbuf = s.rxbuf := rfl
@[simp] theorem State.markConcurrent_resBytes (s : State) : (s.markConcurrent).resBytes = s.resBytes := rfl
@[simp] theorem State.markConcurrent_history (s : State) : (s.markConcurrent).history = s.history := rfl
@[simp] theorem State.markConcurrent_concurrent (s : State) : (s.markConcurrent).concurrent = true := rfl
@[simp] theorem State.markConcurrent_caller (s : State) : (s.markConcurrent).caller = s.caller := rfl
@[simp] theorem State.markConcurrent_transport (s : State) : (s.markConcurrent).transport = s.transport := rfl
@[simp] theorem State.markConcurrent_oracleCalls (s : State) : (s.markConcurrent).oracleCalls = s.oracleCalls := rfl

/-! ### latchBudget -/

@[simp] theorem State.latchBudget_cfg (p : Plan) (s : State) : (s.latchBudget p).cfg = s.cfg := rfl
@[simp] theorem State.latchBudget_st (p : Plan) (s : State) : (s.latchBudget p).st = s.st := rfl
@[simp] theorem State.latchBudget_op (p : Plan) (s : State) : (s.latchBudget p).op = s.op := rfl
@[simp] theorem State.latchBudget_timeout (p : Plan) (s : State) : (s.latchBudget p).timeout = p.timeout := rfl
@[simp] theorem State.latchBudget_elapsed (p : Plan) (s : State) : (s.latchBudget p).elapsed = s.elapsed := rfl
@[simp] theorem State.latchBudget_expLen (p : Plan) (s : State) : (s.latchBudget p).expLen = p.expLen := rfl
@[simp] theorem State.latchBudget_txlen (p : Plan) (s : State) : (s.latchBudget p).txlen = s.txlen := rfl
@[simp] theorem State.latchBudget_rxlen (p : Plan) (s : State) : (s.latchBudget p).rxlen = s.rxlen := rfl
@[simp] theorem State.latchBudget_status (p : Plan) (s : State) : (s.latchBudget p).status = s.status := rfl
@[simp] theorem State.latchBudget_reason (p : Plan) (s : State) : (s.latchBudget p).reason = s.reason := rfl
@[simp] theorem State.latchBudget_failState (p : Plan) (s : State) : (s.latchBudget p).failState = s.failState := rfl
@[simp] theorem State.latchBudget_resFlag (p : Plan) (s : State) : (s.latchBudget p).resFlag = s.resFlag := rfl
@[simp] theorem State.latchBudget_resWord (p : Plan) (s : State) : (s.latchBudget p).resWord = s.resWord := rfl
@[simp] theorem State.latchBudget_resLen (p : Plan) (s : State) : (s.latchBudget p).resLen = s.resLen := rfl
@[simp] theorem State.latchBudget_txbuf (p : Plan) (s : State) : (s.latchBudget p).txbuf = s.txbuf := rfl
@[simp] theorem State.latchBudget_rxbuf (p : Plan) (s : State) : (s.latchBudget p).rxbuf = s.rxbuf := rfl
@[simp] theorem State.latchBudget_resBytes (p : Plan) (s : State) : (s.latchBudget p).resBytes = s.resBytes := rfl
@[simp] theorem State.latchBudget_history (p : Plan) (s : State) : (s.latchBudget p).history = s.history := rfl
@[simp] theorem State.latchBudget_concurrent (p : Plan) (s : State) : (s.latchBudget p).concurrent = s.concurrent := rfl
@[simp] theorem State.latchBudget_caller (p : Plan) (s : State) : (s.latchBudget p).caller = s.caller := rfl
@[simp] theorem State.latchBudget_transport (p : Plan) (s : State) : (s.latchBudget p).transport = s.transport := rfl
@[simp] theorem State.latchBudget_oracleCalls (p : Plan) (s : State) : (s.latchBudget p).oracleCalls = s.oracleCalls := rfl

/-! ### loadFrame -/

@[simp] theorem State.loadFrame_cfg (m : Memory) (n : Nat) (s : State) : (s.loadFrame m n).cfg = s.cfg := rfl
@[simp] theorem State.loadFrame_st (m : Memory) (n : Nat) (s : State) : (s.loadFrame m n).st = .sending := rfl
@[simp] theorem State.loadFrame_op (m : Memory) (n : Nat) (s : State) : (s.loadFrame m n).op = s.op := rfl
@[simp] theorem State.loadFrame_timeout (m : Memory) (n : Nat) (s : State) : (s.loadFrame m n).timeout = s.timeout := rfl
@[simp] theorem State.loadFrame_elapsed (m : Memory) (n : Nat) (s : State) : (s.loadFrame m n).elapsed = s.elapsed := rfl
@[simp] theorem State.loadFrame_expLen (m : Memory) (n : Nat) (s : State) : (s.loadFrame m n).expLen = s.expLen := rfl
@[simp] theorem State.loadFrame_txlen (m : Memory) (n : Nat) (s : State) : (s.loadFrame m n).txlen = n := rfl
@[simp] theorem State.loadFrame_rxlen (m : Memory) (n : Nat) (s : State) : (s.loadFrame m n).rxlen = s.rxlen := rfl
@[simp] theorem State.loadFrame_status (m : Memory) (n : Nat) (s : State) : (s.loadFrame m n).status = s.status := rfl
@[simp] theorem State.loadFrame_reason (m : Memory) (n : Nat) (s : State) : (s.loadFrame m n).reason = s.reason := rfl
@[simp] theorem State.loadFrame_failState (m : Memory) (n : Nat) (s : State) : (s.loadFrame m n).failState = s.failState := rfl
@[simp] theorem State.loadFrame_resFlag (m : Memory) (n : Nat) (s : State) : (s.loadFrame m n).resFlag = s.resFlag := rfl
@[simp] theorem State.loadFrame_resWord (m : Memory) (n : Nat) (s : State) : (s.loadFrame m n).resWord = s.resWord := rfl
@[simp] theorem State.loadFrame_resLen (m : Memory) (n : Nat) (s : State) : (s.loadFrame m n).resLen = s.resLen := rfl
@[simp] theorem State.loadFrame_txbuf (m : Memory) (n : Nat) (s : State) : (s.loadFrame m n).txbuf = m := rfl
@[simp] theorem State.loadFrame_rxbuf (m : Memory) (n : Nat) (s : State) : (s.loadFrame m n).rxbuf = s.rxbuf := rfl
@[simp] theorem State.loadFrame_resBytes (m : Memory) (n : Nat) (s : State) : (s.loadFrame m n).resBytes = s.resBytes := rfl
@[simp] theorem State.loadFrame_history (m : Memory) (n : Nat) (s : State) : (s.loadFrame m n).history = s.history := rfl
@[simp] theorem State.loadFrame_concurrent (m : Memory) (n : Nat) (s : State) : (s.loadFrame m n).concurrent = s.concurrent := rfl
@[simp] theorem State.loadFrame_caller (m : Memory) (n : Nat) (s : State) : (s.loadFrame m n).caller = s.caller := rfl
@[simp] theorem State.loadFrame_transport (m : Memory) (n : Nat) (s : State) : (s.loadFrame m n).transport = s.transport := rfl
@[simp] theorem State.loadFrame_oracleCalls (m : Memory) (n : Nat) (s : State) : (s.loadFrame m n).oracleCalls = s.oracleCalls := rfl

/-! ### storeRead -/

@[simp] theorem State.storeRead_cfg (m : Memory) (n : Nat) (s : State) : (s.storeRead m n).cfg = s.cfg := rfl
@[simp] theorem State.storeRead_st (m : Memory) (n : Nat) (s : State) : (s.storeRead m n).st = s.st := rfl
@[simp] theorem State.storeRead_op (m : Memory) (n : Nat) (s : State) : (s.storeRead m n).op = s.op := rfl
@[simp] theorem State.storeRead_timeout (m : Memory) (n : Nat) (s : State) : (s.storeRead m n).timeout = s.timeout := rfl
@[simp] theorem State.storeRead_elapsed (m : Memory) (n : Nat) (s : State) : (s.storeRead m n).elapsed = s.elapsed := rfl
@[simp] theorem State.storeRead_expLen (m : Memory) (n : Nat) (s : State) : (s.storeRead m n).expLen = s.expLen := rfl
@[simp] theorem State.storeRead_txlen (m : Memory) (n : Nat) (s : State) : (s.storeRead m n).txlen = s.txlen := rfl
@[simp] theorem State.storeRead_rxlen (m : Memory) (n : Nat) (s : State) : (s.storeRead m n).rxlen = n := rfl
@[simp] theorem State.storeRead_status (m : Memory) (n : Nat) (s : State) : (s.storeRead m n).status = s.status := rfl
@[simp] theorem State.storeRead_reason (m : Memory) (n : Nat) (s : State) : (s.storeRead m n).reason = s.reason := rfl
@[simp] theorem State.storeRead_failState (m : Memory) (n : Nat) (s : State) : (s.storeRead m n).failState = s.failState := rfl
@[simp] theorem State.storeRead_resFlag (m : Memory) (n : Nat) (s : State) : (s.storeRead m n).resFlag = s.resFlag := rfl
@[simp] theorem State.storeRead_resWord (m : Memory) (n : Nat) (s : State) : (s.storeRead m n).resWord = s.resWord := rfl
@[simp] theorem State.storeRead_resLen (m : Memory) (n : Nat) (s : State) : (s.storeRead m n).resLen = s.resLen := rfl
@[simp] theorem State.storeRead_txbuf (m : Memory) (n : Nat) (s : State) : (s.storeRead m n).txbuf = s.txbuf := rfl
@[simp] theorem State.storeRead_rxbuf (m : Memory) (n : Nat) (s : State) : (s.storeRead m n).rxbuf = m := rfl
@[simp] theorem State.storeRead_resBytes (m : Memory) (n : Nat) (s : State) : (s.storeRead m n).resBytes = s.resBytes := rfl
@[simp] theorem State.storeRead_history (m : Memory) (n : Nat) (s : State) : (s.storeRead m n).history = s.history := rfl
@[simp] theorem State.storeRead_concurrent (m : Memory) (n : Nat) (s : State) : (s.storeRead m n).concurrent = s.concurrent := rfl
@[simp] theorem State.storeRead_caller (m : Memory) (n : Nat) (s : State) : (s.storeRead m n).caller = s.caller := rfl
@[simp] theorem State.storeRead_transport (m : Memory) (n : Nat) (s : State) : (s.storeRead m n).transport = s.transport := rfl
@[simp] theorem State.storeRead_oracleCalls (m : Memory) (n : Nat) (s : State) : (s.storeRead m n).oracleCalls = s.oracleCalls := rfl

/-! ### withCaller -/

@[simp] theorem State.withCaller_cfg (acts : List CallerAct) (s : State) : (s.withCaller acts).cfg = s.cfg := rfl
@[simp] theorem State.withCaller_st (acts : List CallerAct) (s : State) : (s.withCaller acts).st = s.st := rfl
@[simp] theorem State.withCaller_op (acts : List CallerAct) (s : State) : (s.withCaller acts).op = s.op := rfl
@[simp] theorem State.withCaller_timeout (acts : List CallerAct) (s : State) : (s.withCaller acts).timeout = s.timeout := rfl
@[simp] theorem State.withCaller_elapsed (acts : List CallerAct) (s : State) : (s.withCaller acts).elapsed = s.elapsed := rfl
@[simp] theorem State.withCaller_expLen (acts : List CallerAct) (s : State) : (s.withCaller acts).expLen = s.expLen := rfl
@[simp] theorem State.withCaller_txlen (acts : List CallerAct) (s : State) : (s.withCaller acts).txlen = s.txlen := rfl
@[simp] theorem State.withCaller_rxlen (acts : List CallerAct) (s : State) : (s.withCaller acts).rxlen = s.rxlen := rfl
@[simp] theorem State.withCaller_status (acts : List CallerAct) (s : State) : (s.withCaller acts).status = s.status := rfl
@[simp] theorem State.withCaller_reason (acts : List CallerAct) (s : State) : (s.withCaller acts).reason = s.reason := rfl
@[simp] theorem State.withCaller_failState (acts : List CallerAct) (s : State) : (s.withCaller acts).failState = s.failState := rfl
@[simp] theorem State.withCaller_resFlag (acts : List CallerAct) (s : State) : (s.withCaller acts).resFlag = s.resFlag := rfl
@[simp] theorem State.withCaller_resWord (acts : List CallerAct) (s : State) : (s.withCaller acts).resWord = s.resWord := rfl
@[simp] theorem State.withCaller_resLen (acts : List CallerAct) (s : State) : (s.withCaller acts).resLen = s.resLen := rfl
@[simp] theorem State.withCaller_txbuf (acts : List CallerAct) (s : State) : (s.withCaller acts).txbuf = s.txbuf := rfl
@[simp] theorem State.withCaller_rxbuf (acts : List CallerAct) (s : State) : (s.withCaller acts).rxbuf = s.rxbuf := rfl
@[simp] theorem State.withCaller_resBytes (acts : List CallerAct) (s : State) : (s.withCaller acts).resBytes = s.resBytes := rfl
@[simp] theorem State.withCaller_history (acts : List CallerAct) (s : State) : (s.withCaller acts).history = s.history := rfl
@[simp] theorem State.withCaller_concurrent (acts : List CallerAct) (s : State) : (s.withCaller acts).concurrent = s.concurrent := rfl
@[simp] theorem State.withCaller_caller (acts : List CallerAct) (s : State) : (s.withCaller acts).caller = acts := rfl
@[simp] theorem State.withCaller_transport (acts : List CallerAct) (s : State) : (s.withCaller acts).transport = s.transport := rfl
@[simp] theorem State.withCaller_oracleCalls (acts : List CallerAct) (s : State) : (s.withCaller acts).oracleCalls = s.oracleCalls := rfl

/-! ### resetBlock -/

@[simp] theorem State.resetBlock_cfg (s : State) : (s.resetBlock).cfg = s.cfg := rfl
@[simp] theorem State.resetBlock_st (s : State) : (s.resetBlock).st = .idle := rfl
@[simp] theorem State.resetBlock_op (s : State) : (s.resetBlock).op = 0x00#8 := rfl
@[simp] theorem State.resetBlock_timeout (s : State) : (s.resetBlock).timeout = 0#32 := rfl
@[simp] theorem State.resetBlock_elapsed (s : State) : (s.resetBlock).elapsed = 0 := rfl
@[simp] theorem State.resetBlock_expLen (s : State) : (s.resetBlock).expLen = 0 := rfl
@[simp] theorem State.resetBlock_txlen (s : State) : (s.resetBlock).txlen = 0 := rfl
@[simp] theorem State.resetBlock_rxlen (s : State) : (s.resetBlock).rxlen = 0 := rfl
@[simp] theorem State.resetBlock_status (s : State) : (s.resetBlock).status = 0xFF#8 := rfl
@[simp] theorem State.resetBlock_reason (s : State) : (s.resetBlock).reason = 0x00#8 := rfl
@[simp] theorem State.resetBlock_failState (s : State) : (s.resetBlock).failState = .idle := rfl
@[simp] theorem State.resetBlock_resFlag (s : State) : (s.resetBlock).resFlag = false := rfl
@[simp] theorem State.resetBlock_resWord (s : State) : (s.resetBlock).resWord = 0#32 := rfl
@[simp] theorem State.resetBlock_resLen (s : State) : (s.resetBlock).resLen = 0 := rfl
@[simp] theorem State.resetBlock_txbuf (s : State) : (s.resetBlock).txbuf = [] := rfl
@[simp] theorem State.resetBlock_rxbuf (s : State) : (s.resetBlock).rxbuf = [] := rfl
@[simp] theorem State.resetBlock_resBytes (s : State) : (s.resetBlock).resBytes = [] := rfl
@[simp] theorem State.resetBlock_history (s : State) : (s.resetBlock).history = [] := rfl
@[simp] theorem State.resetBlock_concurrent (s : State) : (s.resetBlock).concurrent = s.concurrent := rfl
@[simp] theorem State.resetBlock_caller (s : State) : (s.resetBlock).caller = s.caller := rfl
@[simp] theorem State.resetBlock_transport (s : State) : (s.resetBlock).transport = s.transport := rfl
@[simp] theorem State.resetBlock_oracleCalls (s : State) : (s.resetBlock).oracleCalls = s.oracleCalls := rfl

/-! ### The Transport Port -/

@[simp] theorem State.nextAnswer_cfg (fits : PortAnswer → Bool) (free : Nat → PortAnswer) (s : State) :
    (s.nextAnswer fits free).2.cfg = s.cfg := by
  unfold State.nextAnswer; split <;> [rfl; split <;> rfl]

@[simp] theorem State.nextAnswer_st (fits : PortAnswer → Bool) (free : Nat → PortAnswer) (s : State) :
    (s.nextAnswer fits free).2.st = s.st := by
  unfold State.nextAnswer; split <;> [rfl; split <;> rfl]

@[simp] theorem State.nextAnswer_op (fits : PortAnswer → Bool) (free : Nat → PortAnswer) (s : State) :
    (s.nextAnswer fits free).2.op = s.op := by
  unfold State.nextAnswer; split <;> [rfl; split <;> rfl]

@[simp] theorem State.nextAnswer_timeout (fits : PortAnswer → Bool) (free : Nat → PortAnswer) (s : State) :
    (s.nextAnswer fits free).2.timeout = s.timeout := by
  unfold State.nextAnswer; split <;> [rfl; split <;> rfl]

@[simp] theorem State.nextAnswer_elapsed (fits : PortAnswer → Bool) (free : Nat → PortAnswer) (s : State) :
    (s.nextAnswer fits free).2.elapsed = s.elapsed := by
  unfold State.nextAnswer; split <;> [rfl; split <;> rfl]

@[simp] theorem State.nextAnswer_expLen (fits : PortAnswer → Bool) (free : Nat → PortAnswer) (s : State) :
    (s.nextAnswer fits free).2.expLen = s.expLen := by
  unfold State.nextAnswer; split <;> [rfl; split <;> rfl]

@[simp] theorem State.nextAnswer_txlen (fits : PortAnswer → Bool) (free : Nat → PortAnswer) (s : State) :
    (s.nextAnswer fits free).2.txlen = s.txlen := by
  unfold State.nextAnswer; split <;> [rfl; split <;> rfl]

@[simp] theorem State.nextAnswer_rxlen (fits : PortAnswer → Bool) (free : Nat → PortAnswer) (s : State) :
    (s.nextAnswer fits free).2.rxlen = s.rxlen := by
  unfold State.nextAnswer; split <;> [rfl; split <;> rfl]

@[simp] theorem State.nextAnswer_status (fits : PortAnswer → Bool) (free : Nat → PortAnswer) (s : State) :
    (s.nextAnswer fits free).2.status = s.status := by
  unfold State.nextAnswer; split <;> [rfl; split <;> rfl]

@[simp] theorem State.nextAnswer_reason (fits : PortAnswer → Bool) (free : Nat → PortAnswer) (s : State) :
    (s.nextAnswer fits free).2.reason = s.reason := by
  unfold State.nextAnswer; split <;> [rfl; split <;> rfl]

@[simp] theorem State.nextAnswer_failState (fits : PortAnswer → Bool) (free : Nat → PortAnswer) (s : State) :
    (s.nextAnswer fits free).2.failState = s.failState := by
  unfold State.nextAnswer; split <;> [rfl; split <;> rfl]

@[simp] theorem State.nextAnswer_resFlag (fits : PortAnswer → Bool) (free : Nat → PortAnswer) (s : State) :
    (s.nextAnswer fits free).2.resFlag = s.resFlag := by
  unfold State.nextAnswer; split <;> [rfl; split <;> rfl]

@[simp] theorem State.nextAnswer_resWord (fits : PortAnswer → Bool) (free : Nat → PortAnswer) (s : State) :
    (s.nextAnswer fits free).2.resWord = s.resWord := by
  unfold State.nextAnswer; split <;> [rfl; split <;> rfl]

@[simp] theorem State.nextAnswer_resLen (fits : PortAnswer → Bool) (free : Nat → PortAnswer) (s : State) :
    (s.nextAnswer fits free).2.resLen = s.resLen := by
  unfold State.nextAnswer; split <;> [rfl; split <;> rfl]

@[simp] theorem State.nextAnswer_txbuf (fits : PortAnswer → Bool) (free : Nat → PortAnswer) (s : State) :
    (s.nextAnswer fits free).2.txbuf = s.txbuf := by
  unfold State.nextAnswer; split <;> [rfl; split <;> rfl]

@[simp] theorem State.nextAnswer_rxbuf (fits : PortAnswer → Bool) (free : Nat → PortAnswer) (s : State) :
    (s.nextAnswer fits free).2.rxbuf = s.rxbuf := by
  unfold State.nextAnswer; split <;> [rfl; split <;> rfl]

@[simp] theorem State.nextAnswer_resBytes (fits : PortAnswer → Bool) (free : Nat → PortAnswer) (s : State) :
    (s.nextAnswer fits free).2.resBytes = s.resBytes := by
  unfold State.nextAnswer; split <;> [rfl; split <;> rfl]

@[simp] theorem State.nextAnswer_concurrent (fits : PortAnswer → Bool) (free : Nat → PortAnswer) (s : State) :
    (s.nextAnswer fits free).2.concurrent = s.concurrent := by
  unfold State.nextAnswer; split <;> [rfl; split <;> rfl]

@[simp] theorem State.nextAnswer_caller (fits : PortAnswer → Bool) (free : Nat → PortAnswer) (s : State) :
    (s.nextAnswer fits free).2.caller = s.caller := by
  unfold State.nextAnswer; split <;> [rfl; split <;> rfl]

@[simp] theorem State.nextAnswer_history (fits : PortAnswer → Bool) (free : Nat → PortAnswer) (s : State) :
    (s.nextAnswer fits free).2.history = s.history := by
  unfold State.nextAnswer; split <;> [rfl; split <;> rfl]

@[simp] theorem State.portWrite_cfg (B : List Byte) (s : State) : (s.portWrite B).2.cfg = s.cfg := by
  simp [State.portWrite]

@[simp] theorem State.portWrite_st (B : List Byte) (s : State) : (s.portWrite B).2.st = s.st := by
  simp [State.portWrite]

@[simp] theorem State.portWrite_op (B : List Byte) (s : State) : (s.portWrite B).2.op = s.op := by
  simp [State.portWrite]

@[simp] theorem State.portWrite_timeout (B : List Byte) (s : State) : (s.portWrite B).2.timeout = s.timeout := by
  simp [State.portWrite]

@[simp] theorem State.portWrite_elapsed (B : List Byte) (s : State) : (s.portWrite B).2.elapsed = s.elapsed := by
  simp [State.portWrite]

@[simp] theorem State.portWrite_expLen (B : List Byte) (s : State) : (s.portWrite B).2.expLen = s.expLen := by
  simp [State.portWrite]

@[simp] theorem State.portWrite_txlen (B : List Byte) (s : State) : (s.portWrite B).2.txlen = s.txlen := by
  simp [State.portWrite]

@[simp] theorem State.portWrite_rxlen (B : List Byte) (s : State) : (s.portWrite B).2.rxlen = s.rxlen := by
  simp [State.portWrite]

@[simp] theorem State.portWrite_status (B : List Byte) (s : State) : (s.portWrite B).2.status = s.status := by
  simp [State.portWrite]

@[simp] theorem State.portWrite_reason (B : List Byte) (s : State) : (s.portWrite B).2.reason = s.reason := by
  simp [State.portWrite]

@[simp] theorem State.portWrite_failState (B : List Byte) (s : State) : (s.portWrite B).2.failState = s.failState := by
  simp [State.portWrite]

@[simp] theorem State.portWrite_resFlag (B : List Byte) (s : State) : (s.portWrite B).2.resFlag = s.resFlag := by
  simp [State.portWrite]

@[simp] theorem State.portWrite_resWord (B : List Byte) (s : State) : (s.portWrite B).2.resWord = s.resWord := by
  simp [State.portWrite]

@[simp] theorem State.portWrite_resLen (B : List Byte) (s : State) : (s.portWrite B).2.resLen = s.resLen := by
  simp [State.portWrite]

@[simp] theorem State.portWrite_txbuf (B : List Byte) (s : State) : (s.portWrite B).2.txbuf = s.txbuf := by
  simp [State.portWrite]

@[simp] theorem State.portWrite_rxbuf (B : List Byte) (s : State) : (s.portWrite B).2.rxbuf = s.rxbuf := by
  simp [State.portWrite]

@[simp] theorem State.portWrite_resBytes (B : List Byte) (s : State) : (s.portWrite B).2.resBytes = s.resBytes := by
  simp [State.portWrite]

@[simp] theorem State.portWrite_concurrent (B : List Byte) (s : State) : (s.portWrite B).2.concurrent = s.concurrent := by
  simp [State.portWrite]

@[simp] theorem State.portWrite_caller (B : List Byte) (s : State) : (s.portWrite B).2.caller = s.caller := by
  simp [State.portWrite]

@[simp] theorem State.portRead_cfg (n : Nat) (s : State) : (s.portRead n).2.cfg = s.cfg := by
  simp [State.portRead]

@[simp] theorem State.portRead_st (n : Nat) (s : State) : (s.portRead n).2.st = s.st := by
  simp [State.portRead]

@[simp] theorem State.portRead_op (n : Nat) (s : State) : (s.portRead n).2.op = s.op := by
  simp [State.portRead]

@[simp] theorem State.portRead_timeout (n : Nat) (s : State) : (s.portRead n).2.timeout = s.timeout := by
  simp [State.portRead]

@[simp] theorem State.portRead_elapsed (n : Nat) (s : State) : (s.portRead n).2.elapsed = s.elapsed := by
  simp [State.portRead]

@[simp] theorem State.portRead_expLen (n : Nat) (s : State) : (s.portRead n).2.expLen = s.expLen := by
  simp [State.portRead]

@[simp] theorem State.portRead_txlen (n : Nat) (s : State) : (s.portRead n).2.txlen = s.txlen := by
  simp [State.portRead]

@[simp] theorem State.portRead_rxlen (n : Nat) (s : State) : (s.portRead n).2.rxlen = s.rxlen := by
  simp [State.portRead]

@[simp] theorem State.portRead_status (n : Nat) (s : State) : (s.portRead n).2.status = s.status := by
  simp [State.portRead]

@[simp] theorem State.portRead_reason (n : Nat) (s : State) : (s.portRead n).2.reason = s.reason := by
  simp [State.portRead]

@[simp] theorem State.portRead_failState (n : Nat) (s : State) : (s.portRead n).2.failState = s.failState := by
  simp [State.portRead]

@[simp] theorem State.portRead_resFlag (n : Nat) (s : State) : (s.portRead n).2.resFlag = s.resFlag := by
  simp [State.portRead]

@[simp] theorem State.portRead_resWord (n : Nat) (s : State) : (s.portRead n).2.resWord = s.resWord := by
  simp [State.portRead]

@[simp] theorem State.portRead_resLen (n : Nat) (s : State) : (s.portRead n).2.resLen = s.resLen := by
  simp [State.portRead]

@[simp] theorem State.portRead_txbuf (n : Nat) (s : State) : (s.portRead n).2.txbuf = s.txbuf := by
  simp [State.portRead]

@[simp] theorem State.portRead_rxbuf (n : Nat) (s : State) : (s.portRead n).2.rxbuf = s.rxbuf := by
  simp [State.portRead]

@[simp] theorem State.portRead_resBytes (n : Nat) (s : State) : (s.portRead n).2.resBytes = s.resBytes := by
  simp [State.portRead]

@[simp] theorem State.portRead_concurrent (n : Nat) (s : State) : (s.portRead n).2.concurrent = s.concurrent := by
  simp [State.portRead]

@[simp] theorem State.portRead_caller (n : Nat) (s : State) : (s.portRead n).2.caller = s.caller := by
  simp [State.portRead]

@[simp] theorem State.portWrite_history (B : List Byte) (s : State) :
    (s.portWrite B).2.history = s.history ++ [.write s.cfg.peerAddr B (s.portWrite B).1] := by
  simp [State.portWrite]

@[simp] theorem State.portRead_history (n : Nat) (s : State) :
    (s.portRead n).2.history = s.history ++ [.read s.cfg.peerAddr n (s.portRead n).1] := by
  simp [State.portRead]

end Sys2Proof.Machine
end

