-- ==== Sys2Proof/Laws/Memory.lean ====
section
/-! SUPPORT. The laws of the buffers: a read after a write, what a write leaves alone, and that every write keeps the
canonical form. -/

namespace Sys2Proof.Machine

@[simp] theorem Memory.get_nil (i : Nat) : Memory.get [] i = none := rfl

/-- A read at the written index gives the written byte. -/
@[simp] theorem Memory.get_set_same (m : Memory) (i : Nat) (v : Byte) : Memory.get (Memory.set m i v) i = some v := by
  induction m with
  | nil => simp [Memory.set, Memory.get]
  | cons c rest ih =>
    obtain ⟨a, b⟩ := c
    unfold Memory.set
    split
    · simp [Memory.get]
    · split
      · simp [Memory.get]
      · rename_i h; simp [Memory.get, Ne.symm h, ih]

/-- A write leaves every other index alone. -/
theorem Memory.get_set_other (m : Memory) {i j : Nat} (v : Byte) (h : j ≠ i) :
    Memory.get (Memory.set m i v) j = Memory.get m j := by
  induction m with
  | nil => simp [Memory.set, Memory.get, Ne.symm h]
  | cons c rest ih =>
    obtain ⟨a, b⟩ := c
    unfold Memory.set
    split
    · simp [Memory.get, Ne.symm h]
    · split
      · rename_i hia; subst hia; simp [Memory.get, Ne.symm h]
      · simp only [Memory.get, ih]

/-- An index in the written memory is an old one or the written one. -/
theorem Memory.mem_set {m : Memory} {i : Nat} {v : Byte} {c : Host.Cell} (h : c ∈ Memory.set m i v) :
    c ∈ m ∨ c = (i, v) := by
  induction m with
  | nil => simpa [Memory.set] using h
  | cons d rest ih =>
    obtain ⟨a, b⟩ := d
    unfold Memory.set at h
    split at h
    · rcases List.mem_cons.1 h with h | h <;> simp_all
    · split at h
      · rcases List.mem_cons.1 h with h | h <;> simp_all
      · rcases List.mem_cons.1 h with h | h
        · simp_all
        · rcases ih h with h | h <;> simp_all

/-- One write keeps the canonical form. -/
theorem Memory.wf_set {m : Memory} (i : Nat) (v : Byte) (h : Memory.wf m) : Memory.wf (Memory.set m i v) := by
  induction m with
  | nil => simp [Memory.set, Memory.wf]
  | cons c rest ih =>
    obtain ⟨a, b⟩ := c
    obtain ⟨hc, hr⟩ := List.pairwise_cons.1 h
    unfold Memory.set
    split
    · rename_i hia
      refine List.pairwise_cons.2 ⟨?_, h⟩
      intro d hd
      rcases List.mem_cons.1 hd with rfl | hd
      · exact hia
      · exact hia.trans (hc d hd)
    · split
      · rename_i hia
        refine List.pairwise_cons.2 ⟨fun d hd => ?_, hr⟩
        subst hia
        exact hc d hd
      · rename_i h1 h2
        refine List.pairwise_cons.2 ⟨fun d hd => ?_, ih hr⟩
        rcases Memory.mem_set hd with hd | rfl
        · exact hc d hd
        · exact lt_of_le_of_ne (not_lt.1 h1) (Ne.symm h2)

/-- Writing many bytes keeps the canonical form. -/
theorem Memory.wf_setAll {m : Memory} (i : Nat) (vs : List Byte) (h : Memory.wf m) :
    Memory.wf (Memory.setAll m i vs) := by
  induction vs generalizing m i with
  | nil => exact h
  | cons v vs ih => exact ih (i + 1) (Memory.wf_set i v h)

/-- Writing many bytes leaves the indices outside them alone. -/
theorem Memory.get_setAll_outside (m : Memory) {i j : Nat} (vs : List Byte) (h : j < i ∨ i + vs.length ≤ j) :
    Memory.get (Memory.setAll m i vs) j = Memory.get m j := by
  induction vs generalizing m i with
  | nil => rfl
  | cons v vs ih =>
    simp only [List.length_cons] at h
    rw [Memory.setAll, ih _ (by omega), Memory.get_set_other _ _ (by omega)]

/-- Each written index reads as its byte. -/
theorem Memory.get_setAll_inside (m : Memory) (i : Nat) (vs : List Byte) {j : Nat} (h : j < vs.length) :
    Memory.get (Memory.setAll m i vs) (i + j) = vs[j]? := by
  induction vs generalizing m i j with
  | nil => simp at h
  | cons v vs ih =>
    cases j with
    | zero => rw [Memory.setAll, Nat.add_zero, Memory.get_setAll_outside _ _ (by omega)]; simp
    | succ j =>
      rw [Memory.setAll, show i + (j + 1) = i + 1 + j by omega, ih _ _ (by simpa using h)]
      simp

/-- Reading consecutive bytes succeeds exactly when each of them holds its value. -/
theorem Memory.getAll_eq_some {m : Memory} {a n : Nat} {bs : List Byte} :
    Memory.getAll m a n = some bs ↔ bs.length = n ∧ ∀ i, i < n → Memory.get m (a + i) = bs[i]? := by
  induction n generalizing a bs with
  | zero => cases bs <;> simp [Memory.getAll]
  | succ n ih =>
    unfold Memory.getAll
    constructor
    · intro h
      split at h
      · rename_i b bs' hb hbs
        obtain rfl : b :: bs' = bs := by simpa using h
        obtain ⟨hl, hg⟩ := ih.1 hbs
        refine ⟨by simp [hl], fun i hi => ?_⟩
        cases i with
        | zero => simpa using hb
        | succ i => simpa [Nat.add_assoc, Nat.add_comm 1 i] using hg i (by omega)
      · exact absurd h (by simp)
    · rintro ⟨hl, hg⟩
      cases bs with
      | nil => simp at hl
      | cons b bs' =>
        have h0 : Memory.get m a = some b := by simpa using hg 0 (by omega)
        have h1 : Memory.getAll m (a + 1) n = some bs' :=
          ih.2 ⟨by simpa using hl, fun i hi => by
            simpa [Nat.add_assoc, Nat.add_comm 1 i] using hg (i + 1) (by omega)⟩
        simp [h0, h1]

/-- A byte without a value makes the whole read fail. -/
theorem Memory.getAll_eq_none {m : Memory} {a n i : Nat} (hi : i < n) (h : Memory.get m (a + i) = none) :
    Memory.getAll m a n = none := by
  cases hg : Memory.getAll m a n with
  | none => rfl
  | some bs =>
    obtain ⟨hl, hb⟩ := Memory.getAll_eq_some.1 hg
    have := hb i hi
    rw [h] at this
    simp [List.getElem?_eq_getElem (hl ▸ hi)] at this

/-- Reading back what was written. -/
theorem Memory.getAll_setAll (m : Memory) (a : Nat) (vs : List Byte) :
    Memory.getAll (Memory.setAll m a vs) a vs.length = some vs :=
  Memory.getAll_eq_some.2 ⟨rfl, fun _ hi => Memory.get_setAll_inside m a vs hi⟩

/-! ### Buffers filled from index 0 on -/

/-- A buffer filled from index `a` on. -/
abbrev Memory.FilledFrom (m : Memory) (a : Nat) : Prop := m.map Prod.fst = List.range' a m.length

theorem Memory.filled_iff (m : Memory) : Memory.Filled m ↔ Memory.FilledFrom m 0 := by
  simp [Memory.Filled, Memory.FilledFrom, List.range_eq_range']

/-- What a buffer filled from `a` on reads as. -/
theorem Memory.get_of_filledFrom {m : Memory} {a : Nat} (h : Memory.FilledFrom m a) (i : Nat) :
    Memory.get m (a + i) = (m.map Prod.snd)[i]? := by
  induction m generalizing a i with
  | nil => rfl
  | cons c rest ih =>
    obtain ⟨x, b⟩ := c
    simp only [Memory.FilledFrom, List.map_cons, List.length_cons, List.range'_succ, List.cons.injEq] at h
    obtain ⟨rfl, hr⟩ := h
    cases i with
    | zero => simp [Memory.get]
    | succ i =>
      have := ih hr i
      simp only [Memory.get, show ¬ (x = x + (i + 1)) by omega, if_false, List.map_cons, List.getElem?_cons_succ]
      rw [← this]; congr 1; omega

/-- A filled buffer holds its bytes. -/
theorem Memory.holds_of_filled {m : Memory} (h : Memory.Filled m) : Memory.Holds m (m.map Prod.snd) := by
  have h0 := Memory.get_of_filledFrom ((Memory.filled_iff m).1 h)
  refine ⟨fun i _ => by simpa using h0 i, fun i hi => ?_⟩
  have := h0 i
  rw [Nat.zero_add] at this
  rw [this]
  exact List.getElem?_eq_none hi

/-- A buffer that holds `bs` is read back as `bs`. -/
theorem Memory.getAll_of_holds {m : Memory} {bs : List Byte} (h : Memory.Holds m bs) :
    Memory.getAll m 0 bs.length = some bs :=
  Memory.getAll_eq_some.2 ⟨rfl, fun i hi => by simpa using h.1 i hi⟩

/-- Any bytes of a filled buffer can be read from index 0 on. -/
theorem Memory.getAll_of_filled {m : Memory} (h : Memory.Filled m) {n : Nat} (hn : n ≤ m.length) :
    Memory.getAll m 0 n = some ((m.map Prod.snd).take n) := by
  have h0 := (Memory.holds_of_filled h).1
  refine Memory.getAll_eq_some.2 ⟨by simpa using hn, fun i hi => ?_⟩
  rw [Nat.zero_add, h0 i (by simpa using lt_of_lt_of_le hi hn), List.getElem?_take_of_lt hi]

/-- Writing at the end of a filled buffer extends it; writing inside replaces a byte. -/
theorem Memory.set_filledFrom {m : Memory} {a : Nat} (h : Memory.FilledFrom m a) {i : Nat} (v : Byte)
    (hi : i ≤ m.length) :
    Memory.FilledFrom (Memory.set m (a + i) v) a ∧ (Memory.set m (a + i) v).length = max m.length (i + 1) := by
  induction m generalizing a i with
  | nil =>
    obtain rfl : i = 0 := by simpa using hi
    simp [Memory.set, Memory.FilledFrom]
  | cons c rest ih =>
    obtain ⟨x, b⟩ := c
    simp only [Memory.FilledFrom, List.map_cons, List.length_cons, List.range'_succ, List.cons.injEq] at h
    obtain ⟨rfl, hr⟩ := h
    cases i with
    | zero => simp [Memory.set, Memory.FilledFrom, List.range'_succ, hr]
    | succ i =>
      obtain ⟨h1, h2⟩ := ih hr (i := i) (by simpa using hi)
      rw [show x + (i + 1) = x + 1 + i by omega]
      simp only [Memory.set, show ¬ (x + 1 + i < x) by omega, show ¬ (x + 1 + i = x) by omega, if_false]
      refine ⟨by simp only [Memory.FilledFrom, List.map_cons, List.length_cons, List.range'_succ, h1], ?_⟩
      simp only [List.length_cons, h2]; omega

/-- Writing bytes from an index inside or at the end of a filled buffer keeps it filled. -/
theorem Memory.setAll_filled {m : Memory} (h : Memory.Filled m) {i : Nat} (vs : List Byte) (hi : i ≤ m.length) :
    Memory.Filled (Memory.setAll m i vs) ∧ (Memory.setAll m i vs).length = max m.length (i + vs.length) := by
  induction vs generalizing m i with
  | nil => exact ⟨h, by simp [Memory.setAll, hi]⟩
  | cons v vs ih =>
    have hs := Memory.set_filledFrom ((Memory.filled_iff m).1 h) v hi
    rw [Nat.zero_add] at hs
    have := ih ((Memory.filled_iff _).2 hs.1) (i := i + 1) (by rw [hs.2]; omega)
    refine ⟨this.1, ?_⟩
    rw [Memory.setAll, this.2, hs.2, List.length_cons]; omega

/-- An empty buffer written from index 0 on holds what was written. -/
theorem Memory.holds_setAll_nil (vs : List Byte) : Memory.Holds (Memory.setAll [] 0 vs) vs :=
  ⟨fun i hi => by simpa using Memory.get_setAll_inside [] 0 vs hi,
    fun i hi => by rw [Memory.get_setAll_outside _ _ (by omega)]; rfl⟩

/-- An empty buffer holds no bytes, and a buffer that holds none is empty. -/
theorem Memory.holds_nil_iff (m : Memory) : Memory.Holds m [] ↔ Memory.Empty m := by
  simp [Memory.Holds, Memory.Empty]

theorem Memory.empty_nil : Memory.Empty [] := fun _ => rfl

/-- What a filled buffer holds, read off its entries. -/
theorem Memory.map_snd_of_holds {m : Memory} (h : Memory.Filled m) {bs : List Byte} (hb : Memory.Holds m bs) :
    m.map Prod.snd = bs := by
  have h0 := Memory.holds_of_filled h
  apply List.ext_getElem?
  intro i
  by_cases h1 : i < bs.length
  · rw [← hb.1 i h1]
    by_cases h2 : i < (m.map Prod.snd).length
    · exact (h0.1 i h2).symm
    · rw [h0.2 i (not_lt.1 h2), List.getElem?_eq_none (not_lt.1 h2)]
  · rw [List.getElem?_eq_none (not_lt.1 h1)]
    by_cases h2 : i < (m.map Prod.snd).length
    · rw [← h0.1 i h2, hb.2 i (not_lt.1 h1)]
    · exact List.getElem?_eq_none (not_lt.1 h2)

/-! ### `memRead` and `memWrite` -/

/-- All a write can do. -/
theorem memWrite_cases (m : Memory) (cap a : Nat) (v : List Byte) :
    (a + v.length ≤ cap ∧ memWrite m cap a v = .ok (Memory.setAll m a v)) ∨
      (cap < a + v.length ∧ memWrite m cap a v = .error .bufferOverrun) := by
  unfold memWrite
  by_cases h : a + v.length > cap
  · exact .inr ⟨h, if_pos h⟩
  · exact .inl ⟨not_lt.1 h, if_neg h⟩

theorem memWrite_ok {m : Memory} {cap a : Nat} {v : List Byte} (h : a + v.length ≤ cap) :
    memWrite m cap a v = .ok (Memory.setAll m a v) := if_neg (not_lt.2 h)

/-- A read within the capacity of bytes that hold their values. -/
theorem memRead_ok {m : Memory} {cap a n : Nat} {bs : List Byte} (h : a + n ≤ cap)
    (hb : Memory.getAll m a n = some bs) : memRead m cap a n = .ok bs := by
  unfold memRead; rw [if_neg (not_lt.2 h), hb]

/-- All a read can do. -/
theorem memRead_cases (m : Memory) (cap a n : Nat) :
    (∃ bs, a + n ≤ cap ∧ Memory.getAll m a n = some bs ∧ memRead m cap a n = .ok bs) ∨
      (cap < a + n ∧ memRead m cap a n = .error .bufferOverrun) ∨
      (a + n ≤ cap ∧ Memory.getAll m a n = none ∧ memRead m cap a n = .error .noValue) := by
  unfold memRead
  by_cases h : a + n > cap
  · exact .inr (.inl ⟨h, if_pos h⟩)
  · rw [if_neg h]
    cases hg : Memory.getAll m a n with
    | some bs => exact .inl ⟨bs, not_lt.1 h, rfl, rfl⟩
    | none => exact .inr (.inr ⟨not_lt.1 h, rfl, rfl⟩)

end Sys2Proof.Machine
end

