-- ==== Sys2Proof/Laws/Accept.lean ====
section
/-! SUPPORT. `finish`, `present`, `accept` and `latchPlan`, one lemma per case, and all that presenting an operation to a
quiescent session can do (`exec_accepted`). -/

namespace Sys2Proof.Machine

open Config (Params)

theorem Params.room (p : Params) :
    p.maxCmdFrame ≤ p.rxMaxFrame ∧ 20 ≤ p.rxMaxFrame ∧ p.rxCap = p.rxMaxFrame + 1 ∧
      p.maxCmdFrame = p.maxPayload + 8 := by
  refine ⟨?_, ?_, rfl, rfl⟩
  · exact le_max_left _ _
  · exact le_max_right _ _

/-! ### finish -/

theorem finish_none {o : Success} {r : Results} (s : State) (h : r.bytes = none) :
    s.finish o r = .next (s.finishWord o r) := by simp [State.finish, h]

theorem finish_bytes {o : Success} {r : Results} {bs : List Byte} (s : State) (h : r.bytes = some bs)
    (hl : bs.length ≤ s.cfg.rxMaxFrame) :
    s.finish o r =
      .next ((s.finishWord o r).withResultBytes (Memory.setAll s.resBytes 0 bs) bs.length) := by
  simp [State.finish, h, memWrite_ok (m := s.resBytes) (show 0 + bs.length ≤ s.cfg.rxMaxFrame by omega)]

/-! ### Presenting a request -/

theorem present_quiescent {op : Byte} {body : State → Result} {s : State} (h : s.st.quiescent = true) :
    present op body s = body (s.clearForAccept op) := if_pos h

theorem present_busy {op : Byte} {body : State → Result} {s : State} (h : s.st.quiescent = false) :
    present op body s = .next s.markConcurrent := if_neg (by simp [h])

theorem accept_busy {o : Op} {d : Option (List Byte)} {n : Option Half} {body : State → Result} {s : State}
    (h : s.st.quiescent = false) : accept o d n body s = .next s.markConcurrent := present_busy h

/-- The arguments pass the checks of acceptance. -/
theorem accept_body {o : Op} {d : Option (List Byte)} {n : Option Half} {body : State → Result} {s : State}
    (h : s.st.quiescent = true) (hd : (d.getD []).length ≤ s.cfg.rxCap)
    (hn : (n.getD 0).toNat ≤ s.cfg.rxMaxFrame) :
    accept o d n body s = body (s.clearForAccept o.code) :=
  (present_quiescent h).trans ((if_neg (not_lt.2 hd)).trans (if_neg (not_lt.2 hn)))

theorem accept_dataTooLong {o : Op} {d : List Byte} {n : Option Half} {body : State → Result} {s : State}
    (h : s.st.quiescent = true) (hd : s.cfg.rxCap < d.length) :
    accept o (some d) n body s = .next ((s.clearForAccept o.code).raise (.invalidArgument .dataTooLong)) :=
  (present_quiescent h).trans (if_pos hd)

theorem accept_expLenTooLarge {o : Op} {d : Option (List Byte)} {n : Half} {body : State → Result} {s : State}
    (h : s.st.quiescent = true) (hd : (d.getD []).length ≤ s.cfg.rxCap) (hn : s.cfg.rxMaxFrame < n.toNat) :
    accept o d (some n) body s =
      .next ((s.clearForAccept o.code).raise (.invalidArgument .expLenTooLarge)) :=
  (present_quiescent h).trans ((if_neg (not_lt.2 hd)).trans (if_pos hn))

/-! ### Latching a plan -/

theorem latchPlan_none {p : Plan} (c : State) (h : p.payload = none) :
    latchPlan p c = .next ((c.latchBudget p).enterPoll .awaitReadyRsp) := by simp [latchPlan, h]

theorem latchPlan_ok {p : Plan} {P : List Byte} (c : State) (h : p.payload = some P) (h0 : 1 ≤ P.length)
    (h1 : P.length ≤ c.cfg.maxPayload) :
    latchPlan p c =
      .next ((c.latchBudget p).loadFrame (Memory.setAll c.txbuf 0 (frameOf tfiCommand P)) (P.length + 8)) := by
  have hr := Params.room c.cfg
  have hw : memWrite c.txbuf c.cfg.maxCmdFrame 0 (frameOf tfiCommand P) =
      .ok (Memory.setAll c.txbuf 0 (frameOf tfiCommand P)) := memWrite_ok (by rw [frameOf_length]; omega)
  simp [latchPlan, h, encodeFrame_ok h0 h1, hw]

theorem latchPlan_error {p : Plan} {P : List Byte} {x : ArgReason} (c : State) (h : p.payload = some P)
    (hx : encodeFrame c.cfg.maxPayload P = .error x) :
    latchPlan p c = .next ((c.latchBudget p).raise (.invalidArgument x)) := by simp [latchPlan, h, hx]

/-! ### All that presenting an operation to a quiescent session can do -/

/-- The ways acceptance of `i` in `s` can end (spec/41_session_fsm.md R141). -/
inductive Accepted (i : Instr) (s : State) : State → Prop
  /-- An argument or decode error, before any plan is latched. -/
  | rejected (e : Err) (h : e.raisedBy s.cfg i.op = true) (hi : e.raisedIn .idle = true)
      (hf : e.terminalState = .failed) : Accepted i s ((s.clearForAccept i.op.code).raise e)
  /-- The plan's payload cannot be encoded. -/
  | unsendable (p : Plan) (x : ArgReason) (hn : p.expLen ≤ s.cfg.rxMaxFrame) (hp : i.op.pureCodec = false)
      (h : s.cfg.Legal → (Err.invalidArgument x).raisedBy s.cfg i.op = true) :
      Accepted i s (((s.clearForAccept i.op.code).latchBudget p).raise (.invalidArgument x))
  /-- A pure codec operation without a byte-sequence result. -/
  | finished (r : Results) (hp : i.op.pureCodec = true) : Accepted i s ((s.clearForAccept i.op.code).finishWord .ok r)
  /-- A pure codec operation with one. -/
  | finishedBytes (r : Results) (bs : List Byte) (hl : bs.length ≤ s.cfg.rxMaxFrame) (hp : i.op.pureCodec = true) :
      Accepted i s (((s.clearForAccept i.op.code).finishWord .ok r).withResultBytes (Memory.setAll [] 0 bs) bs.length)
  /-- Nothing is sent: the session polls. -/
  | polls (p : Plan) (h : i.op.afterReady.isSome = true) (hn : p.expLen ≤ s.cfg.rxMaxFrame)
      (hf : ∀ n, i.op.fixedExpLen = some n → p.expLen = n) :
      Accepted i s (((s.clearForAccept i.op.code).latchBudget p).enterPoll .awaitReadyRsp)
  /-- The frame waits in `txbuf`. -/
  | sends (p : Plan) (P : List Byte) (h : i.op.sends = true) (hn : p.expLen ≤ s.cfg.rxMaxFrame)
      (hf : ∀ n, i.op.fixedExpLen = some n → p.expLen = n) (h0 : 1 ≤ P.length) (h1 : P.length ≤ s.cfg.maxPayload) :
      Accepted i s
        (((s.clearForAccept i.op.code).latchBudget p).loadFrame (Memory.setAll [] 0 (frameOf tfiCommand P))
          (P.length + 8))

/-- Acceptance of an operation that latches a plan, past the argument checks. -/
theorem latchPlan_accepted {i : Instr} {s : State} (p : Plan) (hn : p.expLen ≤ s.cfg.rxMaxFrame)
    (hp : i.op.pureCodec = false) (hf : ∀ n, i.op.fixedExpLen = some n → p.expLen = n)
    (hnone : p.payload = none → i.op.afterReady.isSome = true) (hsend : ∀ P, p.payload = some P → i.op.sends = true)
    (hempty : ∀ P, p.payload = some P → P.length = 0 →
      (Err.invalidArgument .payloadEmpty).raisedBy s.cfg i.op = true)
    (hlong : ∀ P, p.payload = some P → s.cfg.Legal → s.cfg.maxPayload < P.length →
      (Err.invalidArgument .payloadTooLong).raisedBy s.cfg i.op = true) :
    ∃ t, latchPlan p (s.clearForAccept i.op.code) = .next t ∧ Accepted i s t := by
  cases hpl : p.payload with
  | none => exact ⟨_, latchPlan_none _ hpl, .polls p (hnone hpl) hn hf⟩
  | some P =>
    rcases encodeFrame_cases (s.clearForAccept i.op.code).cfg.maxPayload P with ⟨h0, he⟩ | ⟨-, h1, he⟩ | ⟨h0, h1, -⟩
    · exact ⟨_, latchPlan_error _ hpl he, .unsendable p _ hn hp fun _ => hempty P hpl h0⟩
    · exact ⟨_, latchPlan_error _ hpl he, .unsendable p _ hn hp fun hl => hlong P hpl hl h1⟩
    · exact ⟨_, latchPlan_ok _ hpl h0 h1, .sends p P (hsend P hpl) hn hf h0 h1⟩

/-- The argument checks of acceptance: an error of their own, or the body. -/
theorem accept_accepted {i : Instr} {s : State} {d : Option (List Byte)} {n : Option Half} {body : State → Result}
    (h : s.st.quiescent = true) (hd : ∀ x, d = some x → i.op.readsData = true)
    (hn : ∀ x, n = some x → i.op.readsExpLen = true)
    (hbody : (d.getD []).length ≤ s.cfg.rxCap → (n.getD 0).toNat ≤ s.cfg.rxMaxFrame →
      ∃ t, body (s.clearForAccept i.op.code) = .next t ∧ Accepted i s t) :
    ∃ t, accept i.op d n body s = .next t ∧ Accepted i s t := by
  by_cases h1 : (d.getD []).length ≤ s.cfg.rxCap
  · by_cases h2 : (n.getD 0).toNat ≤ s.cfg.rxMaxFrame
    · rw [accept_body h h1 h2]; exact hbody h1 h2
    · cases n with
      | none => exact absurd (Nat.zero_le _) h2
      | some n =>
        exact ⟨_, accept_expLenTooLarge h h1 (not_le.1 h2), .rejected _ (hn n rfl) rfl rfl⟩
  · cases d with
    | none => exact absurd (Nat.zero_le _) h1
    | some d => exact ⟨_, accept_dataTooLong h (not_le.1 h1), .rejected _ (hd d rfl) rfl rfl⟩

/-- Presented to a quiescent session, every operation gives a next state, one of the six kinds above. -/
theorem exec_accepted (i : Instr) {s : State} (h : s.st.quiescent = true) : ∃ t, exec i s = .next t ∧ Accepted i s t := by
  have hr := Params.room s.cfg
  cases i with
  | encodeCommand data =>
    simp only [exec, execEncodeCommand]
    refine accept_accepted (i := .encodeCommand data) h (fun _ _ => rfl) nofun fun h1 _ => ?_
    rcases encodeFrame_cases s.cfg.maxPayload data with ⟨-, he⟩ | ⟨-, -, he⟩ | ⟨-, h2, he⟩
    · exact ⟨_, by simp [he], .rejected (.invalidArgument .payloadEmpty) rfl rfl rfl⟩
    · exact ⟨_, by simp [he], .rejected (.invalidArgument .payloadTooLong) rfl rfl rfl⟩
    · have hl : (frameOf tfiCommand data).length ≤ s.cfg.rxMaxFrame := by rw [frameOf_length]; omega
      simp only [State.clearForAccept_cfg, he]
      exact ⟨_, finish_bytes _ rfl hl, .finishedBytes _ _ hl rfl⟩
  | genChecksum data =>
    simp only [exec, execGenChecksum]
    refine accept_accepted (i := .genChecksum data) h (fun _ _ => rfl) nofun fun _ _ => ?_
    have hl : [csum data].length ≤ s.cfg.rxMaxFrame := show 1 ≤ s.cfg.rxMaxFrame by omega
    exact ⟨_, finish_bytes _ rfl hl, .finishedBytes _ _ hl rfl⟩
  | verifyAck data =>
    simp only [exec, execVerifyAck]
    refine accept_accepted (i := .verifyAck data) h (fun _ _ => rfl) nofun fun _ _ => ?_
    by_cases h7 : data.length = ackReadLength
    · exact ⟨_, by simp only [h7, ne_eq, not_true, if_false]; exact finish_none _ rfl, .finished _ rfl⟩
    · exact ⟨_, by simp only [h7, ne_eq, not_false_eq_true, if_true],
        .rejected (.invalidArgument .badAckLength) rfl rfl rfl⟩
  | decodeResponse data n =>
    simp only [exec, execDecodeResponse]
    refine accept_accepted (i := .decodeResponse data n) h (fun _ _ => rfl) (fun _ _ => rfl) fun _ h2 => ?_
    rcases unframeResponse_cases s.cfg.verifyRspChecksum data n.toNat with
      ⟨-, he⟩ | ⟨hl, -, he⟩ | ⟨-, hv, x, hx, he⟩
    · exact ⟨_, by simp [he], .rejected (.decodeError .lengthMismatch) rfl rfl rfl⟩
    · have hl' : (data.drop 1).length ≤ s.cfg.rxMaxFrame := by
        simp only [List.length_drop, hl]; simpa using h2
      simp only [State.clearForAccept_cfg, he]
      exact ⟨_, finish_bytes _ rfl hl', .finishedBytes _ _ hl' rfl⟩
    · refine ⟨_, by simp [he], .rejected (.decodeError x) ?_ ?_ rfl⟩
      · cases x <;> first | rfl | simp [Err.raisedBy, Instr.op, hv]
      · cases x <;> rfl
  | checkFrame data tfi =>
    simp only [exec, execCheckFrame]
    refine accept_accepted (i := .checkFrame data tfi) h (fun _ _ => rfl) nofun fun _ _ => ?_
    cases hc : frameCheck data tfi with
    | ok u => exact ⟨_, finish_none _ rfl, .finished _ rfl⟩
    | error x =>
      refine ⟨_, rfl, .rejected (.decodeError x) ?_ ?_ rfl⟩
      · cases x <;> first | rfl | exact absurd hc (frameCheck_ne_lengthMismatch data tfi)
      · cases x <;> rfl
  | waitReady T =>
    simp only [exec, execWaitReady]
    refine accept_accepted (i := .waitReady T) h nofun nofun fun _ _ => ?_
    exact latchPlan_accepted (i := .waitReady T) _ (Nat.zero_le _) rfl (by rintro n ⟨⟩; rfl) (fun _ => rfl)
      nofun nofun nofun
  | sendCommand data T =>
    simp only [exec, execSendCommand]
    refine accept_accepted (i := .sendCommand data T) h (fun _ _ => rfl) nofun fun _ _ => ?_
    exact latchPlan_accepted (i := .sendCommand data T) _ (Nat.zero_le _) rfl (by rintro n ⟨⟩; rfl)
      (fun h => by simp at h) (fun _ _ => rfl) (fun _ _ _ => rfl) (fun _ _ _ _ => rfl)
  | transceive data n T =>
    simp only [exec, execTransceive]
    refine accept_accepted (i := .transceive data n T) h (fun _ _ => rfl) (fun _ _ => rfl) fun _ h2 => ?_
    exact latchPlan_accepted (i := .transceive data n T) _ (by simpa using h2) rfl (by rintro n ⟨⟩)
      (fun h => by simp at h) (fun _ _ => rfl) (fun _ _ _ => rfl) (fun _ _ _ _ => rfl)
  | readResponse n T =>
    simp only [exec, execReadResponse]
    refine accept_accepted (i := .readResponse n T) h nofun (fun _ _ => rfl) fun _ h2 => ?_
    exact latchPlan_accepted (i := .readResponse n T) _ (by simpa using h2) rfl (by rintro n ⟨⟩) (fun _ => rfl)
      nofun nofun nofun
  | getFirmwareVersion T =>
    simp only [exec, execGetFirmwareVersion]
    refine accept_accepted (i := .getFirmwareVersion T) h nofun nofun
      fun _ _ => ?_
    exact latchPlan_accepted (i := .getFirmwareVersion T) _ (by simp [firmwareLength]; omega) rfl
      (by rintro n ⟨⟩; rfl) (fun h => by simp at h) (fun _ _ => rfl) (by rintro P ⟨⟩ h; simp at h)
      (by rintro P ⟨⟩ hl h; simp at h; have := hl.1; omega)
  | configureSam =>
    simp only [exec, execConfigureSam]
    refine accept_accepted (i := .configureSam) h nofun nofun fun _ _ => ?_
    exact latchPlan_accepted (i := .configureSam) _ (by simp [samLength]; omega) rfl (by rintro n ⟨⟩; rfl)
      (fun h => by simp at h) (fun _ _ => rfl) (by rintro P ⟨⟩ h; simp at h)
      (by rintro P ⟨⟩ hl h; simp at h; simp [Err.raisedBy, Instr.op]; omega)
  | startPassiveDetection b =>
    simp only [exec, execStartPassiveDetection]
    refine accept_accepted (i := .startPassiveDetection b) h nofun nofun
      fun _ _ => ?_
    exact latchPlan_accepted (i := .startPassiveDetection b) _ (Nat.zero_le _) rfl (by rintro n ⟨⟩; rfl)
      (fun h => by simp at h) (fun _ _ => rfl) (by rintro P ⟨⟩ h; simp [detectionPayload] at h)
      (by rintro P ⟨⟩ hl h; simp [detectionPayload] at h; simp [Err.raisedBy, Instr.op]; omega)
  | readDetectedTarget T =>
    simp only [exec, execReadDetectedTarget]
    refine accept_accepted (i := .readDetectedTarget T) h nofun nofun
      fun _ _ => ?_
    exact latchPlan_accepted (i := .readDetectedTarget T) _ (by simp [detectLength]; omega) rfl
      (by rintro n ⟨⟩; rfl) (fun _ => rfl) nofun nofun
      nofun

/-- Presented to a busy session, every operation sets the mark and changes nothing else (spec/20_memory.md R62). -/
theorem exec_busy (i : Instr) {s : State} (h : s.st.quiescent = false) : exec i s = .next s.markConcurrent := by
  cases i <;> simp only [exec, execEncodeCommand, execGenChecksum, execVerifyAck, execDecodeResponse, execCheckFrame, execWaitReady, execSendCommand, execTransceive, execReadResponse, execGetFirmwareVersion, execConfigureSam, execStartPassiveDetection, execReadDetectedTarget] <;> exact accept_busy h

/-- Acceptance of a reserved code. -/
theorem acceptReserved_quiescent {op : Byte} {s : State} (h : s.st.quiescent = true) :
    acceptReserved op s = .next ((s.clearForAccept op).raise (.invalidArgument .unknownOperation)) :=
  present_quiescent h

theorem acceptReserved_busy {op : Byte} {s : State} (h : s.st.quiescent = false) :
    acceptReserved op s = .next s.markConcurrent := present_busy h

/-- Acceptance changes nothing outside the session. -/
theorem Accepted.envKept {i : Instr} {s t : State} (h : Accepted i s t) : EnvKept s t := by
  cases h <;> exact ⟨rfl, rfl, rfl, rfl, rfl, rfl⟩

/-- Acceptance latches the select code. -/
theorem Accepted.op_eq {i : Instr} {s t : State} (h : Accepted i s t) : t.op = i.op.code := by
  cases h <;> rfl

end Sys2Proof.Machine
end

