-- ==== Sys2Proof/Laws/Port.lean ====
section
/-! SUPPORT. All the Transport Port can answer: one lemma for a write, one for a read. -/

namespace Sys2Proof.Machine

theorem freeWriteAnswer_fits (k : Nat) : (freeWriteAnswer k).fitsWrite = true := by
  unfold freeWriteAnswer; split <;> rfl

theorem freeReadAnswer_fits (n k : Nat) : (freeReadAnswer n k).fitsRead n = true := by
  unfold freeReadAnswer; split <;> simp [PortAnswer.fitsRead]

/-- A write's answer is `Ok` or `IoError`, and the call changes only the history and the transport's side. -/
theorem portWrite_cases (B : List Byte) (s : State) :
    ∃ a rest k, WriteAnswered s a rest k ∧ (a = .ioError ∨ a = .writeOk) ∧
      s.portWrite B = (a, s.afterEvent (.write s.cfg.peerAddr B a) rest k) := by
  have hfree : freeWriteAnswer s.oracleCalls = .ioError ∨ freeWriteAnswer s.oracleCalls = .writeOk := by
    unfold freeWriteAnswer; split <;> simp
  unfold State.portWrite State.nextAnswer
  cases ht : s.transport with
  | nil => exact ⟨_, [], _, .inr ⟨rfl, rfl, .inl ⟨ht, rfl⟩⟩, hfree, by simp [State.log, State.afterEvent]⟩
  | cons a rest =>
    by_cases hf : a.fitsWrite = true
    · refine ⟨a, rest, _, .inl ⟨ht, hf, rfl⟩, ?_, by simp [hf, State.log, State.afterEvent]⟩
      cases a <;> simp_all [PortAnswer.fitsWrite]
    · have hf : a.fitsWrite = false := by simpa using hf
      exact ⟨_, rest, _, .inr ⟨rfl, rfl, .inr ⟨a, ht, hf⟩⟩, hfree, by simp [hf, State.log, State.afterEvent]⟩

/-- A read's answer is `IoError` or exactly the bytes asked for, and the call changes only the history and the transport's
side. -/
theorem portRead_cases (n : Nat) (s : State) :
    ∃ a rest k, ReadAnswered s n a rest k ∧ (a = .ioError ∨ ∃ R, a = .readOk R ∧ R.length = n) ∧
      s.portRead n = (a, s.afterEvent (.read s.cfg.peerAddr n a) rest k) := by
  have hfits : ∀ a : PortAnswer, a.fitsRead n = true → a = .ioError ∨ ∃ R, a = .readOk R ∧ R.length = n := by
    intro a ha
    cases a <;> simp_all [PortAnswer.fitsRead]
  have hfree := hfits _ (freeReadAnswer_fits n s.oracleCalls)
  unfold State.portRead State.nextAnswer
  cases ht : s.transport with
  | nil => exact ⟨_, [], _, .inr ⟨rfl, rfl, .inl ⟨ht, rfl⟩⟩, hfree, by simp [State.log, State.afterEvent]⟩
  | cons a rest =>
    by_cases hf : a.fitsRead n = true
    · exact ⟨a, rest, _, .inl ⟨ht, hf, rfl⟩, hfits a hf, by simp [hf, State.log, State.afterEvent]⟩
    · have hf : a.fitsRead n = false := by simpa using hf
      exact ⟨_, rest, _, .inr ⟨rfl, rfl, .inr ⟨a, ht, hf⟩⟩, hfree, by simp [hf, State.log, State.afterEvent]⟩

/-- The answer of a write is determined: whichever answer the transport gives, the call returns that one. -/
theorem portWrite_of_answered {s : State} {a : PortAnswer} {rest : List PortAnswer} {k : Nat}
    (h : WriteAnswered s a rest k) (B : List Byte) :
    s.portWrite B = (a, s.afterEvent (.write s.cfg.peerAddr B a) rest k) := by
  unfold State.portWrite State.nextAnswer
  rcases h with ⟨ht, hf, rfl⟩ | ⟨rfl, rfl, ⟨ht, rfl⟩ | ⟨x, ht, hf⟩⟩
  · simp [ht, hf, State.log, State.afterEvent]
  · simp [ht, State.log, State.afterEvent]
  · simp [ht, hf, State.log, State.afterEvent]

/-- The answer of a read is determined: whichever answer the transport gives, the call returns that one. -/
theorem portRead_of_answered {s : State} {n : Nat} {a : PortAnswer} {rest : List PortAnswer} {k : Nat}
    (h : ReadAnswered s n a rest k) : s.portRead n = (a, s.afterEvent (.read s.cfg.peerAddr n a) rest k) := by
  unfold State.portRead State.nextAnswer
  rcases h with ⟨ht, hf, rfl⟩ | ⟨rfl, rfl, ⟨ht, rfl⟩ | ⟨x, ht, hf⟩⟩
  · simp [ht, hf, State.log, State.afterEvent]
  · simp [ht, State.log, State.afterEvent]
  · simp [ht, hf, State.log, State.afterEvent]

/-- What the transport can answer to a write. -/
theorem WriteAnswered.answer {s : State} {a : PortAnswer} {rest : List PortAnswer} {k : Nat}
    (h : WriteAnswered s a rest k) : a = .ioError ∨ a = .writeOk := by
  obtain ⟨b, r, j, -, hb, he⟩ := portWrite_cases [] s
  have := portWrite_of_answered h []
  rw [he] at this
  obtain ⟨rfl, -⟩ := Prod.mk.inj this
  exact hb

/-- What the transport can answer to a read of `n` bytes (spec/20_memory.md R54: never a partial read). -/
theorem ReadAnswered.answer {s : State} {n : Nat} {a : PortAnswer} {rest : List PortAnswer} {k : Nat}
    (h : ReadAnswered s n a rest k) : a = .ioError ∨ ∃ R, a = .readOk R ∧ R.length = n := by
  obtain ⟨b, r, j, -, hb, he⟩ := portRead_cases n s
  have := portRead_of_answered h
  rw [he] at this
  obtain ⟨rfl, -⟩ := Prod.mk.inj this
  exact hb

/-- The scripted answer of a read, when it fits. -/
theorem readAnswered_script {s : State} {n : Nat} {R : List Byte} {rest : List PortAnswer}
    (ht : s.transport = .readOk R :: rest) (hl : R.length = n) : ReadAnswered s n (.readOk R) rest s.oracleCalls :=
  .inl ⟨ht, by simp [PortAnswer.fitsRead, hl], rfl⟩

/-- The scripted answer of a write. -/
theorem writeAnswered_script {s : State} {rest : List PortAnswer} (ht : s.transport = .writeOk :: rest) :
    WriteAnswered s .writeOk rest s.oracleCalls := .inl ⟨ht, rfl, rfl⟩

end Sys2Proof.Machine
end

