-- ==== Sys2Proof/Laws/Session.lean ====
section
/-! SUPPORT. One session step, said once: in each busy state, what each answer of the transport makes of it
(spec/41_session_fsm.md R144 to R150), as equations of `sessionStep`. -/

namespace Sys2Proof.Machine

/-- An operation in progress goes with the state. -/
theorem opFits_busy {s : State} (h : s.opFits = true) (hb : s.st.quiescent = false) :
    ∃ o, Op.ofCode s.op = some o ∧ s.op = o.code ∧ o.fitsState s.st = true := by
  simp only [State.opFits, hb, Bool.false_or] at h
  cases hc : Op.ofCode s.op with
  | none => simp [hc] at h
  | some o => exact ⟨o, rfl, Op.ofCode_eq_some.1 hc, by simpa [hc] using h⟩

theorem sessionStep_quiescent {s : State} (h : s.st.quiescent = true) : sessionStep s = .next s := by
  unfold sessionStep
  rw [if_pos (by simp [State.opFits, h])]
  cases hs : s.st <;> simp_all [St.quiescent]

theorem sessionStep_sending {s : State} (h : s.opFits = true) (hs : s.st = .sending) :
    sessionStep s = stepSending s := by
  unfold sessionStep; rw [if_pos h]; simp [hs]

theorem sessionStep_poll {s : State} (h : s.opFits = true) (hs : s.st = .awaitReadyAck ∨ s.st = .awaitReadyRsp) :
    sessionStep s = stepPoll s := by
  unfold sessionStep; rw [if_pos h]; rcases hs with hs | hs <;> simp [hs]

theorem sessionStep_ack {s : State} (h : s.opFits = true) (hs : s.st = .awaitAck) : sessionStep s = stepAck s := by
  unfold sessionStep; rw [if_pos h]; simp [hs]

theorem sessionStep_response {s : State} (h : s.opFits = true) (hs : s.st = .awaitRsp) :
    sessionStep s = stepResponse s := by
  unfold sessionStep; rw [if_pos h]; simp [hs]

/-- R144. -/
theorem stepSending_eq {s : State} {B : List Byte} {a : PortAnswer} {rest : List PortAnswer} {k : Nat}
    (hB : memRead s.txbuf s.cfg.maxCmdFrame 0 s.txlen = .ok B) (ha : WriteAnswered s a rest k) :
    stepSending s =
      if a = .ioError then
        .next ((s.afterEvent (.write s.cfg.peerAddr B a) rest k).raise (.ioError .writeFailed))
      else .next ((s.afterEvent (.write s.cfg.peerAddr B a) rest k).enterPoll .awaitReadyAck) := by
  unfold stepSending
  rw [hB]
  simp only [portWrite_of_answered ha B]
  cases a <;> simp

/-- R145, up to the ready branch. -/
theorem stepPoll_eq {s : State} {a : PortAnswer} {rest : List PortAnswer} {k : Nat} (ha : ReadAnswered s 1 a rest k) :
    let t := s.afterEvent (.read s.cfg.peerAddr 1 a) rest k
    (a = .ioError → stepPoll s = .next (t.raise (.ioError .readyReadFailed))) ∧
      (a = .readOk [readyByte] → stepPoll s = pollReady t) ∧
      ∀ b, a = .readOk [b] → b ≠ readyByte →
        (s.timeout.toNat ≤ s.elapsed → stepPoll s = .next (t.raise (.timedOut (pollTimeoutReason s.st)))) ∧
        (s.elapsed < s.timeout.toNat → stepPoll s = .next t.sleepOnce) := by
  have hp := portRead_of_answered ha
  refine ⟨?_, ?_, ?_⟩
  · rintro rfl; simp [stepPoll, hp]
  · rintro rfl; simp [stepPoll, hp]
  · rintro b rfl hb
    constructor
    · intro h; simp [stepPoll, hp, hb, State.afterEvent, h]
    · intro h; simp [stepPoll, hp, hb, State.afterEvent, h]

/-- R148, up to the branch after a good ack. -/
theorem stepAck_eq {s : State} {a : PortAnswer} {rest : List PortAnswer} {k : Nat} (ha : ReadAnswered s 7 a rest k) :
    let t := s.afterEvent (.read s.cfg.peerAddr 7 a) rest k
    (a = .ioError → stepAck s = .next (t.raise (.ioError .ackReadFailed))) ∧
      ∀ R, a = .readOk R → R.length = 7 ∧
        stepAck s =
          if R.drop 1 = ackFrame then ackGood (t.storeRead (Memory.setAll s.rxbuf 0 R) 7)
          else .next ((t.storeRead (Memory.setAll s.rxbuf 0 R) 7).raise .ackMismatch) := by
  have hp := portRead_of_answered ha
  refine ⟨?_, ?_⟩
  · rintro rfl; simp [stepAck, ackReadLength, hp]
  · rintro R rfl
    have hl : R.length = 7 := by
      rcases ha.answer with h | ⟨R', h, hl⟩
      · exact absurd h (by simp)
      · obtain rfl : R = R' := by simpa using h
        exact hl
    refine ⟨hl, ?_⟩
    have hr := Params.room s.cfg
    have hw : memWrite s.rxbuf s.cfg.rxCap 0 R = .ok (Memory.setAll s.rxbuf 0 R) := memWrite_ok (by omega)
    have hc := ackMatches_iff hl
    by_cases hm : R.drop 1 = ackFrame
    · simp [stepAck, ackReadLength, hp, State.afterEvent, hw, hc.2 hm, hm, hl]
    · have hf : ackMatches R = false := Bool.eq_false_iff.2 fun h => hm (hc.1 h)
      simp [stepAck, ackReadLength, hp, State.afterEvent, hw, hf, hl]
      intro h; exact absurd (by simpa using h) hm

/-- R149, up to the interpretation. -/
theorem stepResponse_eq {s : State} {a : PortAnswer} {rest : List PortAnswer} {k : Nat}
    (hn : s.expLen ≤ s.cfg.rxMaxFrame) (ha : ReadAnswered s (s.expLen + 1) a rest k) :
    let t := s.afterEvent (.read s.cfg.peerAddr (s.expLen + 1) a) rest k
    (a = .ioError → stepResponse s = .next (t.raise (.ioError .rspReadFailed))) ∧
      ∀ R, a = .readOk R → R.length = s.expLen + 1 ∧
        let u := t.storeRead (Memory.setAll s.rxbuf 0 R) (s.expLen + 1)
        (ResponseAccepted s.cfg (R.drop 1) → stepResponse s = interpret (R.drop 1) u) ∧
        ∀ x, s.cfg.verifyRspChecksum = true → frameCheck (R.drop 1) tfiResponse = .error x →
          stepResponse s = .next (u.raise (.decodeError x)) := by
  have hp := portRead_of_answered ha
  refine ⟨?_, ?_⟩
  · rintro rfl; simp [stepResponse, hp]
  · rintro R rfl
    have hl : R.length = s.expLen + 1 := by
      rcases ha.answer with h | ⟨R', h, hl⟩
      · exact absurd h (by simp)
      · obtain rfl : R = R' := by simpa using h
        exact hl
    refine ⟨hl, ?_⟩
    have hr := Params.room s.cfg
    have hw : memWrite s.rxbuf s.cfg.rxCap 0 R = .ok (Memory.setAll s.rxbuf 0 R) := memWrite_ok (by omega)
    refine ⟨fun hacc => ?_, fun x hv hx => ?_⟩
    · have hu : unframeResponse s.cfg.verifyRspChecksum R s.expLen = .ok (R.drop 1) := by
        rcases unframeResponse_cases s.cfg.verifyRspChecksum R s.expLen with ⟨h, -⟩ | ⟨-, -, h⟩ | ⟨-, hv, x, hx, -⟩
        · exact absurd hl h
        · exact h
        · rcases hacc with h | h
          · rw [hv] at h; exact absurd h (by simp)
          · rw [hx] at h; exact absurd h (by simp)
      simp [stepResponse, hp, State.afterEvent, hw, hu, hl]
    · have hu : unframeResponse s.cfg.verifyRspChecksum R s.expLen = .error x := by
        rcases unframeResponse_cases s.cfg.verifyRspChecksum R s.expLen with ⟨h, -⟩ | ⟨-, hacc, -⟩ | ⟨-, -, y, hy, h⟩
        · exact absurd hl h
        · rcases hacc with h | h
          · rw [hv] at h; exact absurd h (by simp)
          · rw [hx] at h; exact absurd h (by simp)
        · rw [hx] at hy
          obtain rfl : x = y := by simpa using hy
          exact h
      simp [stepResponse, hp, State.afterEvent, hw, hu, hl]

end Sys2Proof.Machine
end

