-- ==== Sys2Proof/Laws/Move.lean ====
section
/-! SUPPORT. All a session step can do in a busy state, said once (`sessionStep_move`): every later fact about session steps
is a case analysis on `SessionMove`. -/

namespace Sys2Proof.Machine

/-- The state after the one transaction of a step, with the read's bytes stored. -/
abbrev State.afterStore (s : State) (ev : Event) (rest : List PortAnswer) (k : Nat) (R : List Byte) : State :=
  (s.afterEvent ev rest k).storeRead (Memory.setAll s.rxbuf 0 R) R.length

/-- The errors a session step finds in the bytes it has read and stored (spec/60_exceptions.md R233). -/
def Err.foundInBytes : Err → Bool
  | .ackMismatch | .decodeError _ | .protocolError _ => true
  | .invalidArgument _ | .ioError _ | .timedOut _ => false

/-- Its status is neither `IO_ERROR` nor `TIMED_OUT`, and it ends in `Failed`. -/
theorem Err.foundInBytes_spec {e : Err} (h : e.foundInBytes = true) :
    e.terminalState = .failed ∧ e.status ≠ 0x02 ∧ e.status ≠ 0x03 := by
  revert h; cases e <;> simp [Err.foundInBytes, Err.terminalState, Err.status]

/-- The moves of a busy session holding operation `o` (the rows of spec/41_session_fsm.md R154). -/
inductive SessionMove (s : State) (o : Op) : State → Prop
  /-- An error before any byte is stored: a failed transaction (`IO_ERROR`), or a timeout. -/
  | failed (ev : Event) (rest : List PortAnswer) (k : Nat) (e : Err) (hw : ev.widthOf s)
      (ht : ev.isTransaction = true) (he : e.foundInBytes = false) (hi : e.raisedIn s.st = true)
      (hb : e.raisedBy s.cfg o = true) : SessionMove s o ((s.afterEvent ev rest k).raise e)
  /-- An error found in the bytes `R` read: ack mismatch, decode error, protocol error. -/
  | failedStored (n : Nat) (rest : List PortAnswer) (k : Nat) (R : List Byte) (e : Err)
      (hw : (Event.read s.cfg.peerAddr n (.readOk R)).widthOf s) (hs : s.st = .awaitAck ∨ s.st = .awaitRsp)
      (hR : R.length ≤ s.cfg.rxCap) (he : e.foundInBytes = true) (hi : e.raisedIn s.st = true)
      (hb : e.raisedBy s.cfg o = true) :
      SessionMove s o ((s.afterStore (.read s.cfg.peerAddr n (.readOk R)) rest k R).raise e)
  /-- The frame was written. -/
  | written (ev : Event) (rest : List PortAnswer) (k : Nat) (hw : ev.widthOf s) (ht : ev.isTransaction = true)
      (hs : s.st = .sending) : SessionMove s o ((s.afterEvent ev rest k).enterPoll .awaitReadyAck)
  /-- Ready for the ack. -/
  | readyForAck (ev : Event) (rest : List PortAnswer) (k : Nat) (hw : ev.widthOf s) (ht : ev.isTransaction = true)
      (hs : s.st = .awaitReadyAck) : SessionMove s o { s.afterEvent ev rest k with st := .awaitAck }
  /-- Ready for the response. -/
  | readyForResponse (ev : Event) (rest : List PortAnswer) (k : Nat) (hw : ev.widthOf s)
      (ht : ev.isTransaction = true) (hs : s.st = .awaitReadyRsp) (ho : o.readsResponse = true) :
      SessionMove s o { s.afterEvent ev rest k with st := .awaitRsp }
  /-- Ready, and nothing more was asked (`WAIT_READY`). -/
  | waited (ev : Event) (rest : List PortAnswer) (k : Nat) (hw : ev.widthOf s) (ht : ev.isTransaction = true)
      (hs : s.st = .awaitReadyRsp) (ho : o = .waitReady) :
      SessionMove s o ((s.afterEvent ev rest k).finishWord .ok {})
  /-- Not ready, and the budget is not spent. -/
  | slept (ev : Event) (rest : List PortAnswer) (k : Nat) (hw : ev.widthOf s) (ht : ev.isTransaction = true)
      (hs : s.st = .awaitReadyAck ∨ s.st = .awaitReadyRsp) (he : s.elapsed < s.timeout.toNat) :
      SessionMove s o (s.afterEvent ev rest k).sleepOnce
  /-- A good ack, and nothing more was asked. -/
  | acked (ev : Event) (rest : List PortAnswer) (k : Nat) (R : List Byte) (hw : ev.widthOf s)
      (ht : ev.isTransaction = true) (hs : s.st = .awaitAck) (hR : R.length ≤ s.cfg.rxCap)
      (ho : o.afterAck = some .finish) : SessionMove s o ((s.afterStore ev rest k R).finishWord .ok {})
  /-- A good ack, and the response is polled for. -/
  | ackedToPoll (ev : Event) (rest : List PortAnswer) (k : Nat) (R : List Byte) (hw : ev.widthOf s)
      (ht : ev.isTransaction = true) (hs : s.st = .awaitAck) (hR : R.length ≤ s.cfg.rxCap)
      (ho : o.afterAck = some .pollResponse) : SessionMove s o ((s.afterStore ev rest k R).enterPoll .awaitReadyRsp)
  /-- A response without a byte-sequence result. -/
  | gave (ev : Event) (rest : List PortAnswer) (k : Nat) (R : List Byte) (c : Success) (r : Results)
      (hw : ev.widthOf s) (ht : ev.isTransaction = true) (hs : s.st = .awaitRsp) (hR : R.length ≤ s.cfg.rxCap) :
      SessionMove s o ((s.afterStore ev rest k R).finishWord c r)
  /-- A response with a byte-sequence result. -/
  | gaveBytes (ev : Event) (rest : List PortAnswer) (k : Nat) (R : List Byte) (c : Success) (r : Results)
      (bs : List Byte) (hw : ev.widthOf s) (ht : ev.isTransaction = true) (hs : s.st = .awaitRsp)
      (hR : R.length ≤ s.cfg.rxCap) (hl : bs.length ≤ s.cfg.rxMaxFrame) :
      SessionMove s o
        (((s.afterStore ev rest k R).finishWord c r).withResultBytes (Memory.setAll s.resBytes 0 bs) bs.length)

/-- All `finish` can answer. -/
theorem finish_next {c : Success} {r : Results} {s t : State} (h : s.finish c r = .next t) :
    (r.bytes = none ∧ t = s.finishWord c r) ∨
      ∃ bs, r.bytes = some bs ∧ bs.length ≤ s.cfg.rxMaxFrame ∧
        t = (s.finishWord c r).withResultBytes (Memory.setAll s.resBytes 0 bs) bs.length := by
  cases hb : r.bytes with
  | none =>
    rw [finish_none s hb] at h
    exact .inl ⟨rfl, (Host.Outcome.next.inj h).symm⟩
  | some bs =>
    by_cases hl : bs.length ≤ s.cfg.rxMaxFrame
    · rw [finish_bytes s hb hl] at h
      exact .inr ⟨bs, rfl, hl, (Host.Outcome.next.inj h).symm⟩
    · have : memWrite s.resBytes s.cfg.rxMaxFrame 0 bs = .error .bufferOverrun := by
        rcases memWrite_cases s.resBytes s.cfg.rxMaxFrame 0 bs with ⟨h1, -⟩ | ⟨-, h1⟩
        · omega
        · exact h1
      simp [State.finish, hb, this] at h

/-- All an interpretation can answer: a protocol error of its operation, or a success. -/
theorem interpret_next {d : List Byte} {u t : State} {o : Op} (h : interpret d u = .next t)
    (ho : Op.ofCode u.op = some o) :
    (∃ x, (Err.protocolError x).raisedBy u.cfg o = true ∧ t = u.raise (.protocolError x)) ∨
      ∃ c r, u.finish c r = .next t := by
  unfold interpret at h
  rw [ho] at h
  cases o <;> simp only [reduceCtorEq] at h <;> try exact .inr ⟨_, _, h⟩
  · unfold interpretFirmware at h
    split at h
    · simp at h
    · split at h
      · exact .inl ⟨.unexpectedHeader, rfl, (Host.Outcome.next.inj h).symm⟩
      · exact .inr ⟨_, _, h⟩
  · unfold interpretSam at h
    split at h
    · simp at h
    · split at h
      · exact .inl ⟨.configRejected, rfl, (Host.Outcome.next.inj h).symm⟩
      · exact .inr ⟨_, _, h⟩
  · unfold interpretTarget at h
    split at h
    · simp at h
    · split at h
      · exact .inr ⟨_, _, h⟩
      · dsimp only at h
        split at h
        · exact .inl ⟨.uidOverrun, rfl, (Host.Outcome.next.inj h).symm⟩
        · exact .inr ⟨_, _, h⟩

/-- All a session step can do in a busy state. -/
theorem sessionStep_move {s t : State} (hb : s.st.quiescent = false) (h : sessionStep s = .next t) :
    ∃ o, Op.ofCode s.op = some o ∧ o.fitsState s.st = true ∧ SessionMove s o t := by
  have hfit : s.opFits = true := by
    by_contra hn
    simp [sessionStep, hn] at h
  obtain ⟨o, hoc, -, hf⟩ := opFits_busy hfit hb
  refine ⟨o, hoc, hf, ?_⟩
  have hpoll : s.st = .awaitReadyAck ∨ s.st = .awaitReadyRsp → SessionMove s o t := by
    intro hs
    rw [sessionStep_poll hfit hs] at h
    obtain ⟨a, rest, k, ha, hans, -⟩ := portRead_cases 1 s
    obtain ⟨he, hr, hn⟩ := stepPoll_eq ha
    have hw : (Event.read s.cfg.peerAddr 1 a).widthOf s := ⟨rfl, .inl ⟨rfl, hs⟩⟩
    rcases hans with rfl | ⟨R, rfl, hR⟩
    · rw [he rfl] at h
      obtain rfl := Host.Outcome.next.inj h
      refine .failed _ rest k _ hw rfl rfl (by rcases hs with hs | hs <;> simp [Err.raisedIn, hs]) ?_
      simp only [Err.raisedBy, Bool.not_eq_true']
      cases o <;> first | rfl | (rcases hs with hs | hs <;> simp [hs, Op.fitsState, Op.sends, Op.afterAck, Op.afterReady] at hf)
    · obtain ⟨b, rfl⟩ := List.length_eq_one_iff.1 hR
      by_cases hrb : b = readyByte
      · subst hrb
        rw [hr rfl] at h
        rcases hs with hs | hs
        · simp only [pollReady, State.afterEvent, hs] at h
          obtain rfl := Host.Outcome.next.inj h
          exact .readyForAck _ rest k hw rfl hs
        · simp only [pollReady, State.afterEvent, hs, hoc, Option.bind_some] at h
          cases hc : o.afterReady with
          | none => simp [hc] at h
          | some c =>
            cases c with
            | finish =>
              rw [hc] at h
              dsimp only at h
              rw [finish_none _ rfl] at h
              obtain rfl := Host.Outcome.next.inj h
              refine .waited _ rest k hw rfl hs ?_
              revert hc; cases o <;> simp [Op.afterReady]
            | readResponse =>
              rw [hc] at h
              obtain rfl := Host.Outcome.next.inj h
              exact .readyForResponse _ rest k hw rfl hs (by simp [Op.readsResponse, hc])
      · obtain ⟨h1, h2⟩ := hn b rfl hrb
        by_cases hT : s.timeout.toNat ≤ s.elapsed
        · rw [h1 hT] at h
          obtain rfl := Host.Outcome.next.inj h
          rcases hs with hs | hs
          · refine .failed _ rest k _ hw rfl rfl (by simp [Err.raisedIn, pollTimeoutReason, hs]) ?_
            simpa [Err.raisedBy, pollTimeoutReason, hs, Op.fitsState] using hf
          · refine .failed _ rest k _ hw rfl rfl (by simp [Err.raisedIn, pollTimeoutReason, hs]) ?_
            simp only [hs, Op.fitsState] at hf
            simp only [Err.raisedBy, pollTimeoutReason, hs]
            cases o <;> first | rfl | exact absurd hf (by decide)
        · rw [h2 (not_le.1 hT)] at h
          obtain rfl := Host.Outcome.next.inj h
          exact .slept _ rest k hw rfl hs (not_le.1 hT)
  cases hs : s.st with
  | idle | done | timedOut | failed => simp [hs, St.quiescent] at hb
  | awaitReadyAck => exact hpoll (.inl hs)
  | awaitReadyRsp => exact hpoll (.inr hs)
  | sending =>
    rw [sessionStep_sending hfit hs] at h
    have hsend : o.sends = true := by simpa [hs, Op.fitsState] using hf
    rcases memRead_cases s.txbuf s.cfg.maxCmdFrame 0 s.txlen with ⟨B, -, hg, hB⟩ | ⟨-, hB⟩ | ⟨-, -, hB⟩
    · obtain ⟨a, rest, k, ha, -, -⟩ := portWrite_cases B s
      have hw : (Event.write s.cfg.peerAddr B a).widthOf s := ⟨hs, rfl, (Memory.getAll_eq_some.1 hg).1⟩
      rw [stepSending_eq hB ha] at h
      split at h
      · obtain rfl := Host.Outcome.next.inj h
        exact .failed _ rest k _ hw rfl rfl (by simp [Err.raisedIn, hs]) (by simpa [Err.raisedBy] using hsend)
      · obtain rfl := Host.Outcome.next.inj h
        exact .written _ rest k hw rfl hs
    · simp [stepSending, hB] at h
    · simp [stepSending, hB] at h
  | awaitAck =>
    rw [sessionStep_ack hfit hs] at h
    have hsend : o.sends = true := by simpa [hs, Op.fitsState] using hf
    obtain ⟨a, rest, k, ha, hans, -⟩ := portRead_cases 7 s
    obtain ⟨he, hr⟩ := stepAck_eq ha
    have hw : (Event.read s.cfg.peerAddr 7 a).widthOf s := ⟨rfl, .inr (.inl ⟨rfl, hs⟩)⟩
    have hcap : 7 ≤ s.cfg.rxCap := by have := Params.room s.cfg; omega
    rcases hans with rfl | ⟨R, rfl, hR⟩
    · rw [he rfl] at h
      obtain rfl := Host.Outcome.next.inj h
      exact .failed _ rest k _ hw rfl rfl (by simp [Err.raisedIn, hs]) (by simpa [Err.raisedBy] using hsend)
    · obtain ⟨-, hstep⟩ := hr R rfl
      rw [hstep] at h
      split at h
      · simp only [ackGood, State.storeRead_op, State.afterEvent, hoc, Option.bind_some] at h
        cases hc : o.afterAck with
        | none => simp [hc] at h
        | some c =>
          cases c with
          | finish =>
            rw [hc] at h
            dsimp only at h
            rw [finish_none _ rfl] at h
            obtain rfl := Host.Outcome.next.inj h
            have := SessionMove.acked (s := s) (o := o) _ rest k R hw rfl hs (hR ▸ hcap) hc
            rwa [State.afterStore, hR] at this
          | pollResponse =>
            rw [hc] at h
            obtain rfl := Host.Outcome.next.inj h
            have := SessionMove.ackedToPoll (s := s) (o := o) _ rest k R hw rfl hs (hR ▸ hcap) hc
            rwa [State.afterStore, hR] at this
      · obtain rfl := Host.Outcome.next.inj h
        have := SessionMove.failedStored (s := s) (o := o) 7 rest k R .ackMismatch hw (.inl hs) (hR ▸ hcap) rfl
          (by simp [Err.raisedIn, hs]) (by simpa [Err.raisedBy] using hsend)
        rwa [State.afterStore, hR] at this
  | awaitRsp =>
    rw [sessionStep_response hfit hs] at h
    have hrr : o.readsResponse = true := by simpa [hs, Op.fitsState] using hf
    obtain ⟨a, rest, k, ha, hans, hp⟩ := portRead_cases (s.expLen + 1) s
    have hw : (Event.read s.cfg.peerAddr (s.expLen + 1) a).widthOf s := ⟨rfl, .inr (.inr ⟨rfl, hs⟩)⟩
    rcases hans with rfl | ⟨R, rfl, hR⟩
    · simp only [stepResponse, hp] at h
      obtain rfl := Host.Outcome.next.inj h
      exact .failed _ rest k _ hw rfl rfl (by simp [Err.raisedIn, hs]) (by simpa [Err.raisedBy] using hrr)
    · by_cases hn : s.expLen ≤ s.cfg.rxMaxFrame
      · obtain ⟨-, hstep⟩ := stepResponse_eq hn ha
        obtain ⟨-, hgood, hbad⟩ := hstep R rfl
        have hcap : R.length ≤ s.cfg.rxCap := by have := Params.room s.cfg; omega
        by_cases hacc : ResponseAccepted s.cfg (R.drop 1)
        · rw [hgood hacc] at h
          rcases interpret_next (o := o) h hoc with ⟨x, hx, rfl⟩ | ⟨c, r, hfin⟩
          · have := SessionMove.failedStored (s := s) (o := o) _ rest k R (.protocolError x) hw (.inr hs) hcap rfl
              (by simp [Err.raisedIn, hs]) hx
            rwa [State.afterStore, hR] at this
          · rcases finish_next hfin with ⟨-, rfl⟩ | ⟨bs, -, hl, rfl⟩
            · have := SessionMove.gave (s := s) (o := o) _ rest k R c r hw rfl hs hcap
              rwa [State.afterStore, hR] at this
            · have := SessionMove.gaveBytes (s := s) (o := o) _ rest k R c r bs hw rfl hs hcap hl
              rwa [State.afterStore, hR] at this
        · obtain ⟨hv, hc⟩ := not_or.1 hacc
          have hv : s.cfg.verifyRspChecksum = true := by simpa using hv
          cases hx : frameCheck (R.drop 1) tfiResponse with
          | ok u => exact absurd hx hc
          | error x =>
            rw [hbad x hv hx] at h
            obtain rfl := Host.Outcome.next.inj h
            have hne : x ≠ .lengthMismatch := fun hx' => frameCheck_ne_lengthMismatch _ _ (hx' ▸ hx)
            have := SessionMove.failedStored (s := s) (o := o) _ rest k R (.decodeError x) hw (.inr hs) hcap rfl
              (by cases x <;> simp_all [Err.raisedIn]) (by cases x <;> simp_all [Err.raisedBy])
            rwa [State.afterStore, hR] at this
      · have hov : memWrite s.rxbuf s.cfg.rxCap 0 R = .error .bufferOverrun := by
          have := Params.room s.cfg
          rcases memWrite_cases s.rxbuf s.cfg.rxCap 0 R with ⟨h1, -⟩ | ⟨-, h1⟩
          · omega
          · exact h1
        simp [stepResponse, hp, State.afterEvent, hov] at h

end Sys2Proof.Machine
end

