-- ==== Sys2Proof/Laws/PerInstr.lean ====
section
/-! SUPPORT. Families of statements made once per constructor of `Instr`. `OpselInTable`: the select code the encoder writes
is the code of the instruction's own row of the operation select map, and of no other row (spec/30_encoding.md R72). -/

namespace Sys2Proof.Laws

/-- The code of the encoded request names the instruction's row. -/
def OpselInTable.Statement (i : Instr) : Prop := Op.ofCode (encode i).opsel = some i.op

theorem OpselInTable.encodeCommand (data : List Byte) : OpselInTable.Statement (.encodeCommand data) :=
  Op.ofCode_code .encodeCommand

theorem OpselInTable.genChecksum (data : List Byte) : OpselInTable.Statement (.genChecksum data) :=
  Op.ofCode_code .genChecksum

theorem OpselInTable.verifyAck (data : List Byte) : OpselInTable.Statement (.verifyAck data) :=
  Op.ofCode_code .verifyAck

theorem OpselInTable.decodeResponse (data : List Byte) (expLen : Half) :
    OpselInTable.Statement (.decodeResponse data expLen) := Op.ofCode_code .decodeResponse

theorem OpselInTable.checkFrame (data : List Byte) (tfi : Byte) : OpselInTable.Statement (.checkFrame data tfi) :=
  Op.ofCode_code .checkFrame

theorem OpselInTable.waitReady (timeout : Word) : OpselInTable.Statement (.waitReady timeout) :=
  Op.ofCode_code .waitReady

theorem OpselInTable.sendCommand (data : List Byte) (timeout : Word) :
    OpselInTable.Statement (.sendCommand data timeout) := Op.ofCode_code .sendCommand

theorem OpselInTable.transceive (data : List Byte) (expLen : Half) (timeout : Word) :
    OpselInTable.Statement (.transceive data expLen timeout) := Op.ofCode_code .transceive

theorem OpselInTable.readResponse (expLen : Half) (timeout : Word) :
    OpselInTable.Statement (.readResponse expLen timeout) := Op.ofCode_code .readResponse

theorem OpselInTable.getFirmwareVersion (timeout : Word) : OpselInTable.Statement (.getFirmwareVersion timeout) :=
  Op.ofCode_code .getFirmwareVersion

theorem OpselInTable.configureSam : OpselInTable.Statement .configureSam := Op.ofCode_code .configureSam

theorem OpselInTable.startPassiveDetection (brty : Byte) : OpselInTable.Statement (.startPassiveDetection brty) :=
  Op.ofCode_code .startPassiveDetection

theorem OpselInTable.readDetectedTarget (timeout : Word) : OpselInTable.Statement (.readDetectedTarget timeout) :=
  Op.ofCode_code .readDetectedTarget

end Sys2Proof.Laws
end

