-- ==== Sys2Proof/Laws/Step.lean ====
section
/-! SUPPORT. One step of the machine, said once: which act of the caller it takes and what that does. -/

namespace Sys2Proof.Machine

/-- A step from a state with legal parameters and registers is the caller's act or a session step. -/
theorem step_eq_stepLegal {s : State} (hp : s.cfg.Legal) (hr : s.regsLegal = true) : step s = stepLegal s := by
  unfold step; rw [if_neg (not_not.2 hp), if_pos hr]

/-- A step that gives a next state came from such a state. -/
theorem legal_of_step_next {s t : State} (h : step s = .next t) :
    s.cfg.Legal ∧ s.regsLegal = true ∧ stepLegal s = .next t := by
  unfold step at h
  split at h
  · simp at h
  · rename_i hp
    split at h
    · rename_i hr; exact ⟨not_not.1 hp, hr, h⟩
    · simp at h

theorem step_session {s : State} (hp : s.cfg.Legal) (hr : s.regsLegal = true) (hc : s.caller = []) :
    step s = sessionStep s := by
  rw [step_eq_stepLegal hp hr]; simp [stepLegal, hc]

/-- Presenting a request to a quiescent session: an operation's acceptance, or that of a reserved code. -/
theorem presentRequest_quiescent (r : Request) {s : State} (h : s.st.quiescent = true) :
    ∃ t, presentRequest r s = .next t ∧
      ((∃ i, decode r = .ok i ∧ Accepted i s t) ∨
        ((∀ o : Op, r.opsel ≠ o.code) ∧ t = (s.clearForAccept r.opsel).raise (.invalidArgument .unknownOperation))) := by
  rcases decode_cases r with ⟨o, -, hd⟩ | ⟨hn, hd⟩
  · obtain ⟨t, ht, ha⟩ := exec_accepted (o.instr r) h
    exact ⟨t, by simp [presentRequest, hd, ht], .inl ⟨_, hd, ha⟩⟩
  · exact ⟨_, by simp [presentRequest, hd, acceptReserved_quiescent h], .inr ⟨hn, rfl⟩⟩

/-- Presenting a request to a busy session sets the mark and changes nothing else. -/
theorem presentRequest_busy (r : Request) {s : State} (h : s.st.quiescent = false) :
    presentRequest r s = .next s.markConcurrent := by
  rcases decode_cases r with ⟨o, -, hd⟩ | ⟨-, hd⟩
  · simp [presentRequest, hd, exec_busy _ h]
  · simp [presentRequest, hd, acceptReserved_busy h]

/-- All a step can do. `u` is the state with the caller's act taken, if one was. -/
theorem step_cases {s t : State} (h : step s = .next t) :
    ∃ acts, (acts = s.caller ∨ ∃ act, s.caller = act :: acts) ∧
      (sessionStep (s.withCaller acts) = .next t ∨
        (s.caller = .reset :: acts ∧ t = (s.withCaller acts).resetBlock) ∨
        ∃ r, (s.caller = .present r :: acts ∨ (s.caller = .call r :: acts ∧ s.st.quiescent = true)) ∧
          presentRequest r (s.withCaller acts) = .next t) := by
  obtain ⟨-, -, h⟩ := legal_of_step_next h
  unfold stepLegal at h
  cases hc : s.caller with
  | nil =>
    rw [hc] at h
    refine ⟨[], .inl rfl, .inl ?_⟩
    have : s.withCaller [] = s := by cases s; simp_all [State.withCaller]
    rwa [this]
  | cons act rest =>
    rw [hc] at h
    cases act with
    | pass => exact ⟨rest, .inr ⟨_, rfl⟩, .inl h⟩
    | reset => exact ⟨rest, .inr ⟨_, rfl⟩, .inr (.inl ⟨rfl, (Host.Outcome.next.inj h).symm⟩)⟩
    | present r => exact ⟨rest, .inr ⟨_, rfl⟩, .inr (.inr ⟨r, .inl rfl, h⟩)⟩
    | call r =>
      dsimp only at h
      split at h
      · rename_i hq; exact ⟨rest, .inr ⟨_, rfl⟩, .inr (.inr ⟨r, .inr ⟨rfl, hq⟩, h⟩)⟩
      · refine ⟨_, .inl rfl, .inl ?_⟩
        have : s.withCaller (.call r :: rest) = s := by cases s; simp_all [State.withCaller]
        rwa [this]

/-! ### Runs -/

@[simp] theorem runs_zero (s : State) : runs 0 s = .next s := rfl

/-- A run goes on from the next state of its first step. -/
theorem runs_succ {s t : State} (k : Nat) (h : step s = .next t) : runs (k + 1) s = runs k t := by
  rw [runs, h]

/-- A run that gives a next state began with a step that does. -/
theorem step_of_runs_succ {s u : State} {k : Nat} (h : runs (k + 1) s = .next u) :
    ∃ t, step s = .next t ∧ runs k t = .next u := by
  rw [runs] at h
  split at h
  · exact ⟨_, ‹_›, h⟩
  · simp at h
  · simp at h

/-- Runs compose. -/
theorem runs_add {s t : State} (k n : Nat) (h : runs k s = .next t) : runs (k + n) s = runs n t := by
  induction k generalizing s with
  | zero =>
    obtain rfl := Host.Outcome.next.inj h
    rw [Nat.zero_add]
  | succ k ih =>
    obtain ⟨u, hu, hr⟩ := step_of_runs_succ h
    rw [show k + 1 + n = k + n + 1 by omega, runs_succ _ hu]
    exact ih hr

/-- One step of a run of any machine of the host's interface. -/
theorem core_run_succ (M : Host.Core) (k : Nat) (s : M.State) :
    M.run (k + 1) s =
      match M.step s with
      | .next t => M.run k t
      | .fault f => .fault f
      | .refused r => .refused r := rfl

/-- The runs of claims are the host's. -/
theorem runs_eq_core_run (k : Nat) (s : State) : runs k s = Host.Core.run Sys2Proof.core k s := by
  induction k generalizing s with
  | zero => rfl
  | succ k ih =>
    have h := core_run_succ Sys2Proof.core k s
    cases hs : step s with
    | next t =>
      rw [show Sys2Proof.core.step s = .next t from hs] at h
      exact (runs_succ k hs).trans ((ih t).trans h.symm)
    | fault f =>
      rw [show Sys2Proof.core.step s = .fault f from hs] at h
      rw [runs, hs]; exact h.symm
    | refused r =>
      rw [show Sys2Proof.core.step s = .refused r from hs] at h
      rw [runs, hs]; exact h.symm

end Sys2Proof.Machine
end

