-- ==== Sys2Proof/Laws/Typed.lean ====
section
/-! SUPPORT. The interpretations of the typed operations (spec/42_typed_operations.md R190 to R207), one equation per case,
and the exact value of the packed version. -/

namespace Sys2Proof.Machine

/-- The handler of each operation that reads a response (spec/41_session_fsm.md R150). -/
theorem interpret_raw {d : List Byte} {u : State} (h : u.op = 0x12 ∨ u.op = 0x13) :
    interpret d u = u.finish .ok { bytes := some d } := by
  unfold interpret
  rcases h with h | h <;> rw [h] <;> rfl

theorem interpret_firmware {d : List Byte} {u : State} (h : u.op = 0x20) : interpret d u = interpretFirmware d u := by
  unfold interpret; rw [h]; rfl

theorem interpret_sam {d : List Byte} {u : State} (h : u.op = 0x21) : interpret d u = interpretSam d u := by
  unfold interpret; rw [h]; rfl

theorem interpret_target {d : List Byte} {u : State} (h : u.op = 0x23) : interpret d u = interpretTarget d u := by
  unfold interpret; rw [h]; rfl

theorem interpretFirmware_rejected {d : List Byte} {u : State} (hl : d.length = 13) (h : d.take 6 ≠ firmwareHeader) :
    interpretFirmware d u = .next (u.raise (.protocolError .unexpectedHeader)) :=
  (if_neg (not_not.2 hl)).trans (if_pos (by simpa [slice] using h))

theorem interpretFirmware_accepted {d : List Byte} {u : State} {chip major minor build : Byte} (hl : d.length = 13)
    (h : d.take 6 = firmwareHeader) (hv : (d.drop 7).take 4 = [chip, major, minor, build]) :
    interpretFirmware d u =
      u.finish .ok
        { word := some (packVersion chip major minor build), bytes := some [chip, major, minor, build] } := by
  have hb : ∀ i (b : Byte), [chip, major, minor, build][i]? = some b → byteAt d (7 + i) = b := by
    intro i b hi
    rw [← hv] at hi
    refine byteAt_eq ?_
    have hi4 : i < 4 := by
      by_contra hn
      rw [List.getElem?_eq_none (by simp; omega)] at hi
      exact absurd hi (by simp)
    rwa [List.getElem?_take_of_lt hi4, List.getElem?_drop] at hi
  have h7 := hb 0 _ rfl
  have h8 := hb 1 _ rfl
  have h9 := hb 2 _ rfl
  have h10 := hb 3 _ rfl
  refine ((if_neg (not_not.2 hl)).trans (if_neg (not_not.2 (by simpa [slice] using h)))).trans ?_
  simp only [Nat.add_zero, Nat.reduceAdd] at h7 h8 h9 h10
  rw [h7, h8, h9, h10]
  simp only [slice, Nat.reduceSub, hv]

theorem interpretSam_rejected {d : List Byte} {u : State} (hl : d.length = 9)
    (h : d[u.cfg.samOkOffset.val]? ≠ some u.cfg.samOkMarker) :
    interpretSam d u = .next (u.raise (.protocolError .configRejected)) := by
  refine (if_neg (not_not.2 hl)).trans (if_pos fun he => h ?_)
  rw [getElem?_of_byteAt (by rw [hl]; exact u.cfg.samOkOffset.isLt), he]

theorem interpretSam_accepted {d : List Byte} {u : State} (hl : d.length = 9)
    (h : d[u.cfg.samOkOffset.val]? = some u.cfg.samOkMarker) : interpretSam d u = u.finish .ok {} :=
  (if_neg (not_not.2 hl)).trans (if_neg (not_not.2 (byteAt_eq h)))

theorem interpretTarget_none {d : List Byte} {u : State} (hl : d.length = 20)
    (h : d[u.cfg.nbtgOffset.val]? ≠ some 0x01) : interpretTarget d u = u.finish .notFound {} := by
  refine (if_neg (not_not.2 hl)).trans (if_pos fun he => h ?_)
  rw [getElem?_of_byteAt (by rw [hl]; exact u.cfg.nbtgOffset.isLt), he]; rfl

theorem interpretTarget_overrun {d : List Byte} {u : State} {n : Byte} (hl : d.length = 20)
    (h : d[u.cfg.nbtgOffset.val]? = some 0x01) (hn : d[u.cfg.uidLenOffset.val]? = some n)
    (hov : 20 < u.cfg.uidOffset.val + n.toNat) :
    interpretTarget d u = .next (u.raise (.protocolError .uidOverrun)) := by
  refine (if_neg (not_not.2 hl)).trans ((if_neg (not_not.2 (byteAt_eq h))).trans (if_pos ?_))
  rw [byteAt_eq hn]; exact hov

theorem interpretTarget_accepted {d : List Byte} {u : State} {n : Byte} (hl : d.length = 20)
    (h : d[u.cfg.nbtgOffset.val]? = some 0x01) (hn : d[u.cfg.uidLenOffset.val]? = some n)
    (hok : u.cfg.uidOffset.val + n.toNat ≤ 20) :
    interpretTarget d u =
      u.finish .ok { bytes := some (slice d u.cfg.uidOffset (u.cfg.uidOffset + n.toNat)) } := by
  refine (if_neg (not_not.2 hl)).trans ((if_neg (not_not.2 (byteAt_eq h))).trans ((if_neg ?_).trans ?_))
  · rw [byteAt_eq hn]; exact not_lt.2 hok
  · rw [byteAt_eq hn]

/-- The packed word is the big-endian value of the four bytes (R192, spec/20_memory.md R51). -/
theorem packVersion_eq_append (chip major minor build : Byte) :
    packVersion chip major minor build = chip ++ major ++ minor ++ build := by
  unfold packVersion
  apply BitVec.eq_of_getLsbD_eq
  intro i hi
  simp only [BitVec.getLsbD_or, BitVec.getLsbD_shiftLeft, BitVec.getLsbD_append]
  interval_cases i <;> simp

theorem packVersion_toNat (chip major minor build : Byte) :
    (packVersion chip major minor build).toNat =
      chip.toNat * 2 ^ 24 + major.toNat * 2 ^ 16 + minor.toNat * 2 ^ 8 + build.toNat := by
  have h1 := chip.isLt
  have h2 := major.isLt
  have h3 := minor.isLt
  have h4 := build.isLt
  have hor : ∀ (x y : Nat), y < 2 ^ 8 → x <<< 8 ||| y = x * 2 ^ 8 + y := by
    intro x y hy
    rw [← Nat.shiftLeft_add_eq_or_of_lt hy, Nat.shiftLeft_eq]
  rw [packVersion_eq_append]
  simp only [BitVec.toNat_append]
  rw [hor _ _ h2, hor _ _ h3, hor _ _ h4]
  omega

end Sys2Proof.Machine
end

