-- ==== Sys2Proof/Tests/Slice0.lean ====
section
/-! SUPPORT. Tests of the model, one step each, with results taken from spec/95_test_vectors.md (the vector is named), and
the witnesses: for every statement of Certificates/Slice0/Obligations.lean with hypotheses, concrete states and operands
that meet them. -/

namespace Sys2Proof.Tests

open Sys2Proof.Machine
open Sys2Proof.Config (Params vectorParams)

/-! ### Helpers -/

/-- The next state of an outcome, if it has one. -/
def stateOf : Result → Option State
  | .next t => some t
  | .fault _ | .refused _ => none

/-- An idle session. -/
def idle (p : Params) : State := State.resetWith p

/-- A session in `st`, with operation code `op`, expected length, budget 20 ms, `elapsed` ms spent, and the transport's
answers. -/
def busy (p : Params) (st : St) (op : Byte) (expLen elapsed : Nat) (answers : List PortAnswer) : State :=
  { State.resetWith p with st := st, op := op, expLen := expLen, timeout := 20, elapsed := elapsed, transport := answers }

/-- A session about to write the frame of `[0x02]`. -/
def sending (answers : List PortAnswer) : State :=
  { busy vectorParams .sending 0x11 0 0 answers with
    txlen := 9
    txbuf := [(0, 0x00), (1, 0x00), (2, 0xFF), (3, 0x02), (4, 0xFE), (5, 0xD4), (6, 0x02), (7, 0x2A), (8, 0x00)] }

/-- The parameters with the response check on. -/
def checked : Params := { vectorParams with verifyRspChecksum := true }

/-- The smallest legal parameters: `RX_MAX_FRAME` is 20 and `RX_CAP` is 21. -/
def smallest : Params := { vectorParams with maxPayload := 1, pollInterval := 1 }

/-- The result record after presenting a request to an idle session. -/
def recordAfter (p : Params) (r : Request) : Option ResultRecord :=
  (stateOf (presentRequest r (idle p))).bind State.resultRecord

/-- The result record after one session step. -/
def recordAfterStep (s : State) : Option ResultRecord := (stateOf (sessionStep s)).bind State.resultRecord

/-- A successful record. -/
def okRecord (flag : Bool) (word : Word) (bytes : List Byte) : ResultRecord :=
  { status := 0x00, reason := 0x00, failState := .idle, resFlag := flag, resWord := word, resLen := bytes.length,
    resBytes := bytes }

/-- A failed record. -/
def failRecord (status reason : Byte) (fail : St) : ResultRecord :=
  { status := status, reason := reason, failState := fail, resFlag := false, resWord := 0, resLen := 0, resBytes := [] }

/-- The frame bytes waiting in `txbuf` after presenting a request. -/
def frameAfter (r : Request) : Option (St × Nat × List Byte) :=
  (stateOf (presentRequest r (idle vectorParams))).map (fun t => (t.st, t.txlen, t.txbuf.map Prod.snd))

/-! ### Well-formedness: each check refuses an ill-formed term -/

theorem test_wellFormed_data_too_long :
    (Instr.genChecksum (List.replicate 22 0)).wellFormed smallest = false ∧
      (Instr.genChecksum (List.replicate 21 0)).wellFormed smallest = true := by decide

theorem test_wellFormed_payload_empty :
    (Instr.sendCommand [] 0).wellFormed vectorParams = false ∧
      (Instr.sendCommand [0] 0).wellFormed vectorParams = true := by decide

theorem test_wellFormed_payload_too_long :
    (Instr.encodeCommand [0x01, 0x02]).wellFormed smallest = false ∧
      (Instr.encodeCommand [0x01]).wellFormed smallest = true ∧
      (Instr.transceive [0x01, 0x02] 0 0).wellFormed smallest = false := by decide

theorem test_wellFormed_exp_len_too_large :
    (Instr.readResponse 263 0).wellFormed vectorParams = false ∧
      (Instr.readResponse 262 0).wellFormed vectorParams = true ∧
      (Instr.decodeResponse [0x01] 263).wellFormed vectorParams = false := by decide

theorem test_wellFormed_ack_length :
    (Instr.verifyAck (List.replicate 6 0)).wellFormed vectorParams = false ∧
      (Instr.verifyAck (List.replicate 8 0)).wellFormed vectorParams = false ∧
      (Instr.verifyAck (List.replicate 7 0)).wellFormed vectorParams = true := by decide

theorem test_wellFormed_fixed_payloads :
    Instr.configureSam.wellFormed { vectorParams with maxPayload := 2 } = false ∧
      Instr.configureSam.wellFormed { vectorParams with maxPayload := 3 } = true ∧
      (Instr.startPassiveDetection 0).wellFormed { vectorParams with maxPayload := 2 } = false ∧
      (Instr.getFirmwareVersion 0).wellFormed { vectorParams with maxPayload := 0 } = false := by decide

/-! ### Decoding: words written out from spec/30_encoding.md R72, operands from R70 -/

theorem test_decode_codec :
    decode { opsel := 0x01, data := [0x4A, 0x01, 0x00], expLen := 9, timeout := 8, tfi := 7, brty := 6 } =
        .ok (.encodeCommand [0x4A, 0x01, 0x00]) ∧
      decode { opsel := 0x02, data := [0xD4, 0x02], expLen := 9, timeout := 8, tfi := 7, brty := 6 } =
        .ok (.genChecksum [0xD4, 0x02]) ∧
      decode { opsel := 0x03, data := [0x01, 0x00], expLen := 9, timeout := 8, tfi := 7, brty := 6 } =
        .ok (.verifyAck [0x01, 0x00]) ∧
      decode { opsel := 0x04, data := [0x01, 0xAA], expLen := 0xFFFF, timeout := 8, tfi := 7, brty := 6 } =
        .ok (.decodeResponse [0x01, 0xAA] 0xFFFF) ∧
      decode { opsel := 0x05, data := [0x00], expLen := 9, timeout := 8, tfi := 0xD4, brty := 6 } =
        .ok (.checkFrame [0x00] 0xD4) := by decide

theorem test_decode_session :
    decode { opsel := 0x10, data := [0x02], expLen := 9, timeout := 0xFFFFFFFF, tfi := 7, brty := 6 } =
        .ok (.waitReady 0xFFFFFFFF) ∧
      decode { opsel := 0x11, data := [0x02], expLen := 9, timeout := 8, tfi := 7, brty := 6 } =
        .ok (.sendCommand [0x02] 8) ∧
      decode { opsel := 0x12, data := [0x02], expLen := 13, timeout := 100, tfi := 7, brty := 6 } =
        .ok (.transceive [0x02] 13 100) ∧
      decode { opsel := 0x13, data := [0x02], expLen := 9, timeout := 50, tfi := 7, brty := 6 } =
        .ok (.readResponse 9 50) := by decide

theorem test_decode_typed :
    decode { opsel := 0x20, data := [0x02], expLen := 9, timeout := 100, tfi := 7, brty := 6 } =
        .ok (.getFirmwareVersion 100) ∧
      decode { opsel := 0x21, data := [0x02], expLen := 9, timeout := 8, tfi := 7, brty := 6 } = .ok .configureSam ∧
      decode { opsel := 0x22, data := [0x02], expLen := 9, timeout := 8, tfi := 7, brty := 0x02 } =
        .ok (.startPassiveDetection 0x02) ∧
      decode { opsel := 0x23, data := [0x02], expLen := 9, timeout := 50, tfi := 7, brty := 6 } =
        .ok (.readDetectedTarget 50) := by decide

/-- The codes on both sides of every run of the table are reserved (R72). -/
theorem test_decode_reserved :
    [0x00, 0x06, 0x0F, 0x14, 0x1F, 0x24, 0x81, 0xFF].all (fun b =>
      decide (decode { opsel := b } = .error (.reservedOpsel b))) = true := by decide

/-- No two rows of the table overlap. -/
theorem test_rows_distinct : (Op.all.map Op.code).Pairwise (· ≠ ·) := by decide

/-- The host's word reaches the very next step, and the instruction runs there. -/
theorem test_fetch_word :
    (stateOf (step (State.reset.withFetchWord 8 0x21))).map (fun t => (t.st, t.op, t.caller)) =
      some (.sending, 0x21, []) := by decide

/-- Text of P2 request 2 and of 2.2 (spec/30_encoding.md R82). -/
theorem test_text :
    readRequest "START_PASSIVE_DETECTION brty=0x02" = .ok { opsel := 0x22, brty := 0x02 } ∧
      readRequest "ENCODE_COMMAND data=[0x4A,0x01,0x00]" = .ok { opsel := 0x01, data := [0x4A, 0x01, 0x00] } := by
  decide

/-! ### Reset -/

/-- spec/95_test_vectors.md section 3, start state. -/
theorem test_reset :
    State.reset.st.code = 0 ∧ State.reset.status = 0xFF ∧ State.reset.history = [] ∧ Memory.wf State.reset.txbuf ∧
      Memory.wf State.reset.rxbuf ∧ Memory.wf State.reset.resBytes := by decide

/-! ### Pure codec operations (spec/95_test_vectors.md 2.1 to 2.5) -/

theorem test_encodeCommand :
    recordAfter vectorParams { opsel := 0x01, data := [0x00, 0xFF, 0xD4] } =
      some (okRecord false 0 [0x00, 0x00, 0xFF, 0x04, 0xFC, 0xD4, 0x00, 0xFF, 0xD4, 0x59, 0x00]) := by decide

/-- 2.2, `MAX_PAYLOAD = 1`. -/
theorem test_encodeCommand_too_long :
    recordAfter smallest { opsel := 0x01, data := [0x01, 0x02] } =
      some (failRecord 0x01 0x04 .idle) := by decide

theorem test_genChecksum :
    recordAfter vectorParams { opsel := 0x02, data := [0xFF, 0xFF] } = some (okRecord false 2 [0x02]) := by decide

/-- spec/41_session_fsm.md R141: one byte more than `RX_CAP`. -/
theorem test_genChecksum_too_long :
    recordAfter smallest { opsel := 0x02, data := List.replicate 22 0 } =
      some (failRecord 0x01 0x02 .idle) := by decide

theorem test_verifyAck :
    recordAfter vectorParams { opsel := 0x03, data := [0xFF, 0x00, 0x00, 0xFF, 0x00, 0xFF, 0x00] } =
      some (okRecord true 0 []) := by decide

/-- 2.3: a negative ack is the result 0, no error. -/
theorem test_verifyAck_negative :
    recordAfter vectorParams { opsel := 0x03, data := [0x01, 0x00, 0x00, 0xFF, 0xFF, 0x00, 0x00] } =
      some (okRecord false 0 []) := by decide

/-- 2.4: byte 0 is discarded whatever it is. -/
theorem test_decodeResponse :
    recordAfter vectorParams
        { opsel := 0x04, data := [0x07, 0x00, 0x00, 0xFF, 0x02, 0xFE, 0xD5, 0x15, 0x16, 0x00], expLen := 9 } =
      some (okRecord false 0 [0x00, 0x00, 0xFF, 0x02, 0xFE, 0xD5, 0x15, 0x16, 0x00]) := by decide

theorem test_decodeResponse_checked :
    recordAfter checked { opsel := 0x04, data := [0x01, 0xAA, 0xBB], expLen := 2 } =
      some (failRecord 0x06 0x02 .idle) := by decide

/-- 2.5: the tail is not examined. -/
theorem test_checkFrame :
    recordAfter vectorParams
        { opsel := 0x05
          data := [0x00, 0x00, 0xFF, 0x06, 0xFA, 0xD5, 0x03, 0x32, 0x01, 0x06, 0x07, 0xE8, 0x00, 0xAA]
          tfi := 0xD5 } = some (okRecord true 6 []) := by decide

theorem test_checkFrame_bad_data_checksum :
    recordAfter vectorParams
        { opsel := 0x05
          data := [0x00, 0x00, 0xFF, 0x06, 0xFA, 0xD5, 0x03, 0x32, 0x01, 0x06, 0x07, 0xE9, 0x00]
          tfi := 0xD5 } = some (failRecord 0x06 0x07 .idle) := by decide

/-! ### Session operations (spec/95_test_vectors.md 2.6, 2.7) -/

/-- 2.6: ready at `elapsed = T` wins. -/
theorem test_waitReady :
    recordAfterStep (busy vectorParams .awaitReadyRsp 0x10 0 20 [.readOk [0x01]]) = some (okRecord false 0 []) := by
  decide

/-- 2.6: only 01 is ready. -/
theorem test_waitReady_timeout :
    recordAfterStep (busy vectorParams .awaitReadyRsp 0x10 0 20 [.readOk [0x80]]) =
      some (failRecord 0x03 0x02 .awaitReadyRsp) := by decide

theorem test_sendCommand :
    frameAfter { opsel := 0x11, data := [0x01, 0x02, 0x03, 0x04], timeout := 20 } =
      some (.sending, 12, [0x00, 0x00, 0xFF, 0x05, 0xFB, 0xD4, 0x01, 0x02, 0x03, 0x04, 0x22, 0x00]) := by decide

/-- 2.7: the write fails, and it is the only event. -/
theorem test_sendCommand_write_failed :
    (stateOf (sessionStep (sending [.ioError]))).map (fun t => (t.status, t.reason, t.failState, t.history)) =
      some (0x02, 0x01, .sending,
        [.write 0 [0x00, 0x00, 0xFF, 0x02, 0xFE, 0xD4, 0x02, 0x2A, 0x00] .ioError]) := by decide

/-- 2.7: the response read of `exp_len = 0` is one byte. -/
theorem test_transceive :
    (stateOf (sessionStep (busy vectorParams .awaitRsp 0x12 0 0 [.readOk [0x01]]))).map
        (fun t => (t.st, t.status, t.resLen, t.rxlen)) = some (.done, 0x00, 0, 1) := by decide

/-- 2.7: a negative ack ends the exchange, and its bytes stay readable. -/
theorem test_transceive_ack_mismatch :
    (stateOf (sessionStep
        (busy vectorParams .awaitAck 0x12 13 0 [.readOk [0x01, 0x00, 0x00, 0xFF, 0xFF, 0x00, 0x00]]))).map
        (fun t => (t.st, t.status, t.failState, t.diagnosticBytes)) =
      some (.failed, 0x04, .awaitAck, some [0x01, 0x00, 0x00, 0xFF, 0xFF, 0x00, 0x00]) := by decide

theorem test_readResponse :
    recordAfterStep
        (busy vectorParams .awaitRsp 0x13 9 0
          [.readOk [0x01, 0x00, 0x00, 0xFF, 0x02, 0xFE, 0xD5, 0x15, 0x16, 0x00]]) =
      some (okRecord false 0 [0x00, 0x00, 0xFF, 0x02, 0xFE, 0xD5, 0x15, 0x16, 0x00]) := by decide

/-- 2.7: a leftover ack, with the response check on. -/
theorem test_readResponse_leftover_ack :
    recordAfterStep
        (busy checked .awaitRsp 0x13 9 0 [.readOk [0x01, 0x00, 0x00, 0xFF, 0x00, 0xFF, 0x00, 0x00, 0x00, 0x00]]) =
      some (failRecord 0x06 0x04 .awaitRsp) := by decide

/-! ### Typed operations (spec/95_test_vectors.md 2.8, X3, X5) -/

theorem test_getFirmwareVersion :
    recordAfterStep
        (busy vectorParams .awaitRsp 0x20 13 0
          [.readOk [0x01, 0x00, 0x00, 0xFF, 0x06, 0xFA, 0xD5, 0x03, 0x32, 0x01, 0x06, 0x07, 0xE8, 0x00]]) =
      some (okRecord false 0x32010607 [0x32, 0x01, 0x06, 0x07]) := by decide

theorem test_getFirmwareVersion_bad_header :
    recordAfterStep
        (busy vectorParams .awaitRsp 0x20 13 0
          [.readOk [0x01, 0x00, 0x00, 0xFF, 0x06, 0xFB, 0xD5, 0x03, 0x32, 0x01, 0x06, 0x07, 0xE8, 0x00]]) =
      some (failRecord 0x05 0x01 .awaitRsp) := by decide

theorem test_configureSam :
    frameAfter { opsel := 0x21 } =
      some (.sending, 11, [0x00, 0x00, 0xFF, 0x04, 0xFC, 0xD4, 0x14, 0x01, 0x14, 0x03, 0x00]) := by decide

theorem test_configureSam_rejected :
    recordAfterStep
        (busy vectorParams .awaitRsp 0x21 9 0
          [.readOk [0x01, 0x00, 0x00, 0xFF, 0x02, 0xFE, 0xD5, 0x7F, 0xAC, 0x00]]) =
      some (failRecord 0x05 0x02 .awaitRsp) := by decide

theorem test_startPassiveDetection :
    frameAfter { opsel := 0x22, brty := 0x02 } =
      some (.sending, 11, [0x00, 0x00, 0xFF, 0x04, 0xFC, 0xD4, 0x4A, 0x01, 0x02, 0xDF, 0x00]) := by decide

/-- 2.8: done with the ack; the response stays unread. -/
theorem test_startPassiveDetection_ack :
    recordAfterStep
        (busy vectorParams .awaitAck 0x22 0 0 [.readOk [0x01, 0x00, 0x00, 0xFF, 0x00, 0xFF, 0x00]]) =
      some (okRecord false 0 []) := by decide

theorem test_readDetectedTarget :
    recordAfterStep
        (busy vectorParams .awaitRsp 0x23 20 0
          [.readOk [0x01, 0x00, 0x00, 0xFF, 0x0F, 0xF1, 0xD5, 0x4B, 0x01, 0x01, 0x00, 0x44, 0x00, 0x07, 0x04, 0x11,
            0x22, 0x33, 0x44, 0x55, 0x66]]) =
      some (okRecord false 0 [0x04, 0x11, 0x22, 0x33, 0x44, 0x55, 0x66]) := by decide

/-- 2.8: a count of 2 is not 1. -/
theorem test_readDetectedTarget_not_found :
    recordAfterStep
        (busy vectorParams .awaitRsp 0x23 20 0
          [.readOk ([0x01, 0x00, 0x00, 0xFF, 0x03, 0xFD, 0xD5, 0x4B, 0x02, 0xDE, 0x00] ++ List.replicate 10 0)]) =
      some { okRecord false 0 [] with status := 0x07 } := by decide

/-- 2.7, last row: a request while busy is refused and changes nothing but the mark. -/
theorem test_request_while_busy :
    stateOf (presentRequest { opsel := 0x02 } (sending [])) = some { sending [] with concurrent := true } := by decide

/-! ### Witnesses: states of the invariant -/

/-- A busy session of the helpers past `Sending` meets the invariant. -/
theorem busy_inv {p : Params} {st : St} {op : Byte} {expLen elapsed : Nat} {answers : List PortAnswer} (hp : p.Legal)
    (hb : st.quiescent = false) (hs : st ≠ .sending) (hn : expLen ≤ p.rxMaxFrame)
    (hop : (Op.ofCode op).any (fun o => o.fitsState st) = true)
    (hlen : ∀ o n, Op.ofCode op = some o → o.fixedExpLen = some n → expLen = n) :
    (busy p st op expLen elapsed answers).Inv where
  params := hp
  regs := by
    have : State.regsLegal (busy p st op expLen elapsed answers) =
        (decide (expLen ≤ p.rxMaxFrame) && true && true && true && true && true) := rfl
    rw [this, decide_eq_true hn]; rfl
  tx := ⟨rfl, rfl⟩
  rx := ⟨rfl, Nat.zero_le _, Nat.zero_le _⟩
  res := ⟨rfl, rfl⟩
  op := by
    have : (busy p st op expLen elapsed answers).opFits =
        (st.quiescent || (Op.ofCode op).any (fun o => o.fitsState st)) := rfl
    rw [this, hop, Bool.or_true]
  len := fun _ => hlen
  frame := fun h => absurd h hs
  noResult := fun _ => ⟨rfl, rfl, rfl⟩
  outcome := by
    revert hb
    cases st <;> intro hb <;> first | exact ⟨rfl, rfl, rfl⟩ | exact absurd hb (by decide)

/-- A session about to send meets it. -/
theorem sending_inv_nil : (sending []).Inv where
  params := by decide
  regs := by decide
  tx := by decide
  rx := by decide
  res := by decide
  op := by decide
  len := by
    intro _ o n h1 h2
    have h1 : Op.ofCode 0x11 = some o := h1
    obtain rfl : Op.sendCommand = o := Option.some.inj h1
    exact Option.some.inj h2
  frame := fun _ => ⟨[0x02], by decide, by decide, by decide⟩
  noResult := fun _ => ⟨rfl, rfl, rfl⟩
  outcome := ⟨rfl, rfl, rfl⟩

theorem sending_inv (answers : List PortAnswer) : (sending answers).Inv :=
  have h := sending_inv_nil
  ⟨h.params, h.regs, h.tx, h.rx, h.res, h.op, h.len, h.frame, h.noResult, h.outcome⟩

theorem firmware_inv (p : Params) (hp : p.Legal) (answers : List PortAnswer) :
    (busy p .awaitRsp 0x20 13 0 answers).Inv :=
  busy_inv hp rfl (by decide) (le_trans (by decide) (le_max_right _ 20)) rfl fun o n h1 h2 => by
    obtain rfl : Op.getFirmwareVersion = o := Option.some.inj h1
    exact Option.some.inj h2

theorem sam_inv (p : Params) (hp : p.Legal) (answers : List PortAnswer) :
    (busy p .awaitRsp 0x21 9 0 answers).Inv :=
  busy_inv hp rfl (by decide) (le_trans (by decide) (le_max_right _ 20)) rfl fun o n h1 h2 => by
    obtain rfl : Op.configureSam = o := Option.some.inj h1
    exact Option.some.inj h2

theorem target_inv (p : Params) (hp : p.Legal) (answers : List PortAnswer) :
    (busy p .awaitRsp 0x23 20 0 answers).Inv :=
  busy_inv hp rfl (by decide) (le_max_right _ 20) rfl fun o n h1 h2 => by
    obtain rfl : Op.readDetectedTarget = o := Option.some.inj h1
    exact Option.some.inj h2

/-- A raw response is awaited, the longest one too. -/
theorem raw_inv (p : Params) (hp : p.Legal) (n : Nat) (hn : n ≤ p.rxMaxFrame) (answers : List PortAnswer) :
    (busy p .awaitRsp 0x13 n 0 answers).Inv :=
  busy_inv hp rfl (by decide) hn rfl fun o m h1 h2 => by
    obtain rfl : Op.readResponse = o := Option.some.inj h1
    exact absurd h2 (by simp [Op.fixedExpLen])

/-! ### Witnesses: one theorem per statement with hypotheses, one part per clause -/

theorem witness_ResetMeetsInvariant : vectorParams.Legal ∧ smallest.Legal ∧ checked.Legal := by decide

theorem witness_DecodeAndEncodeAgree :
    decode { opsel := 0x12, data := [0x02], brty := 5 } = .ok (.transceive [0x02] 0 0) ∧
      ∀ o : Op, (0x14 : Byte) ≠ o.code :=
  ⟨by decide, fun o => by cases o <;> decide⟩

theorem witness_StepRunsThePresentedRequest :
    vectorParams.Legal ∧ (idle vectorParams).regsLegal = true ∧ (idle vectorParams).st.quiescent = true ∧
      (sending []).regsLegal = true ∧ (sending []).cfg = vectorParams ∧ (sending []).st.quiescent = false ∧
      decode { opsel := 0x02 } = .ok (.genChecksum []) ∧
      { idle vectorParams with caller := [.present { opsel := 0x02 }] }.regsLegal = true ∧
      { idle vectorParams with caller := [.call { opsel := 0x02 }] }.regsLegal = true ∧
      { sending [] with caller := [.call { opsel := 0x02 }] }.regsLegal = true := by decide

theorem witness_StepWithoutRequestIsASessionStep :
    (sending [.writeOk]).cfg.Legal ∧ (sending [.writeOk]).regsLegal = true ∧ (sending [.writeOk]).caller = [] ∧
      { sending [.writeOk] with caller := [.pass] }.regsLegal = true := by decide

theorem witness_ReservedOpselEndsInFailed :
    (idle vectorParams).st.quiescent = true ∧
      ([0x00, 0x06, 0x0F, 0x14, 0x1F, 0x24, 0xFF] : List Byte).all (fun b => Op.all.all (fun o => b != o.code)) = true := by
  decide

theorem witness_EncodedFrameHasTheCommandLayout :
    ([] : List Byte).length = 0 ∧ (1 : Nat) < [(0 : Byte), 0].length ∧ (1 : Nat) ≤ [(0 : Byte)].length ∧
      [(0 : Byte)].length ≤ 1 ∧ 1 ≤ 254 :=
  by decide

/-- The longest payload. -/
theorem witness_longest_payload : (List.replicate 254 (0xFF : Byte)).length = 254 := List.length_replicate

theorem witness_EncodedFramePassesTheFrameCheck :
    1 ≤ [(0x02 : Byte)].length ∧ [(0x02 : Byte)].length ≤ 1 ∧ 1 ≤ 254 ∧
      (List.replicate 254 (0xFF : Byte)).length ≤ 254 :=
  ⟨by decide, by decide, by decide, List.length_replicate.le⟩

/-- One frame for each clause; a frame that would fail a later test too is reported by the earlier one (the first two, the
ack constant, the direction byte before the checksum). -/
theorem witness_FrameCheckReportsTheFirstFailingTest :
    ([0x00, 0x00, 0xFE, 0x06] : List Byte).length < 5 ∧
    (let F : List Byte := [0x00, 0x00, 0xFE, 0x06, 0xFB]
     5 ≤ F.length ∧ F.take 3 ≠ [0x00, 0x00, 0xFF]) ∧
    (let F : List Byte := [0x00, 0x00, 0xFF, 0x00, 0xFF, 0x00]
     F.take 3 = [0x00, 0x00, 0xFF] ∧ F[3]? = some 0x00 ∧ F[4]? = some 0xFF ∧
       ((0x00 : Byte).toNat + (0xFF : Byte).toNat) % 256 ≠ 0) ∧
    (let F : List Byte := [0x00, 0x00, 0xFF, 0x00, 0x00]
     F.take 3 = [0x00, 0x00, 0xFF] ∧ F[3]? = some 0x00 ∧ F[4]? = some 0x00 ∧
       ((0x00 : Byte).toNat + (0x00 : Byte).toNat) % 256 = 0) ∧
    (let F : List Byte := [0x00, 0x00, 0xFF, 0x02, 0xFE, 0xD5, 0x15, 0x16]
     F.take 3 = [0x00, 0x00, 0xFF] ∧ F[3]? = some 0x02 ∧ F[4]? = some 0xFE ∧
       ((0x02 : Byte).toNat + (0xFE : Byte).toNat) % 256 = 0 ∧ (0x02 : Byte) ≠ 0 ∧
       F.length < (0x02 : Byte).toNat + 7) ∧
    (let F : List Byte := [0x00, 0x00, 0xFF, 0x02, 0xFE, 0xD4, 0x15, 0x16, 0x01]
     F.take 3 = [0x00, 0x00, 0xFF] ∧ F[5]? = some 0xD4 ∧ F[5 + (0x02 : Byte).toNat]? = some 0x16 ∧
       F[6 + (0x02 : Byte).toNat]? = some 0x01 ∧ (0xD4 : Byte) ≠ 0xD5) ∧
    (let F : List Byte := [0x00, 0x00, 0xFF, 0x02, 0xFE, 0xD5, 0x15, 0x17, 0x01]
     F[5]? = some 0xD5 ∧ F[5 + (0x02 : Byte).toNat]? = some 0x17 ∧
       ((((F.drop 5).take (0x02 : Byte).toNat).map BitVec.toNat).sum + (0x17 : Byte).toNat) % 256 ≠ 0) ∧
    (let F : List Byte := [0x00, 0x00, 0xFF, 0x02, 0xFE, 0xD5, 0x15, 0x16, 0x01]
     F[6 + (0x02 : Byte).toNat]? = some 0x01 ∧ (0x01 : Byte) ≠ 0x00 ∧
       ((((F.drop 5).take (0x02 : Byte).toNat).map BitVec.toNat).sum + (0x16 : Byte).toNat) % 256 = 0) ∧
    (let F : List Byte := [0x00, 0x00, 0xFF, 0x02, 0xFE, 0xD5, 0x15, 0x16, 0x00, 0xAA]
     F.take 3 = [0x00, 0x00, 0xFF] ∧ F[5]? = some 0xD5 ∧ F[6 + (0x02 : Byte).toNat]? = some 0x00 ∧
       ((((F.drop 5).take (0x02 : Byte).toNat).map BitVec.toNat).sum + (0x16 : Byte).toNat) % 256 = 0) := by decide

theorem witness_AckValidatorAcceptsExactlyTheAck :
    ([0x00, 0x00, 0x00, 0xFF, 0x00, 0xFF, 0x00] : List Byte).length = 7 ∧
      ackMatches [0x00, 0x00, 0x00, 0xFF, 0x00, 0xFF, 0x00] = true ∧ 1 ≤ 1 ∧ 6 < 7 ∧
      ([0x00, 0x00, 0x00, 0xFF, 0x00, 0xFF, 0x00] : List Byte)[1]? ≠ some 0x01 ∧
      ([0x00, 0x00, 0x00, 0xFF, 0x00, 0xFF, 0x00] : List Byte)[6]? ≠ some 0x01 := by decide

theorem witness_DecodedResponseIsASliceOfTheInput :
    unframeResponse true [0x01, 0x00, 0x00, 0xFF, 0x02, 0xFE, 0xD5, 0x15, 0x16, 0x00] 9 =
        .ok [0x00, 0x00, 0xFF, 0x02, 0xFE, 0xD5, 0x15, 0x16, 0x00] ∧
      ([0x01] : List Byte).length = 0 + 1 ∧ ([] : List Byte).length ≠ 0 + 1 := by decide

theorem witness_BufferAccessesFollowTheirRules :
    Memory.wf [(0, 0x01), (2, 0x03)] ∧ 2 + ([0x07, 0x08] : List Byte).length ≤ 4 ∧
      4 < 3 + ([0x07, 0x08] : List Byte).length ∧ 4 < 3 + 2 ∧ 2 + 2 ≤ 4 ∧ 1 < 2 ∧
      Memory.get [(0, 0x01), (2, 0x03)] (2 + 1) = none := by decide

theorem witness_GenChecksumResult :
    (idle smallest).st.quiescent = true ∧ (List.replicate 21 (0 : Byte)).length ≤ (idle smallest).cfg.rxCap ∧
      (idle smallest).cfg.rxCap < (List.replicate 22 (0 : Byte)).length := by decide

theorem witness_EncodeCommandResult :
    (idle smallest).st.quiescent = true ∧ (idle smallest).cfg.Legal ∧ 1 ≤ [(0 : Byte)].length ∧
      [(0 : Byte)].length ≤ (idle smallest).cfg.maxPayload ∧ ([] : List Byte).length = 0 ∧
      (idle smallest).cfg.maxPayload < [(0 : Byte), 0].length ∧
      (idle smallest).cfg.maxPayload < (List.replicate 21 (0 : Byte)).length ∧
      (List.replicate 21 (0 : Byte)).length ≤ (idle smallest).cfg.rxCap ∧
      (idle smallest).cfg.rxCap < (List.replicate 22 (0 : Byte)).length := by decide

theorem witness_VerifyAckResult :
    (idle smallest).st.quiescent = true ∧ (List.replicate 7 (0 : Byte)).length = 7 ∧
      (List.replicate 6 (0 : Byte)).length ≠ 7 ∧ (List.replicate 6 (0 : Byte)).length ≤ (idle smallest).cfg.rxCap ∧
      (List.replicate 21 (0 : Byte)).length ≠ 7 ∧ (List.replicate 21 (0 : Byte)).length ≤ (idle smallest).cfg.rxCap ∧
      (idle smallest).cfg.rxCap < (List.replicate 22 (0 : Byte)).length := by decide

theorem witness_DecodeResponseResult :
    (idle checked).st.quiescent = true ∧ (idle smallest).st.quiescent = true ∧
      (idle smallest).cfg.rxCap < (List.replicate 22 (0 : Byte)).length ∧
      (List.replicate 21 (0 : Byte)).length ≤ (idle smallest).cfg.rxCap ∧
      (idle smallest).cfg.rxMaxFrame < (21 : Half).toNat ∧ (20 : Half).toNat ≤ (idle smallest).cfg.rxMaxFrame ∧
      ([0x01] : List Byte).length ≠ (20 : Half).toNat + 1 ∧
      (List.replicate 21 (0 : Byte)).length = (20 : Half).toNat + 1 ∧
      (2 : Half).toNat ≤ (idle checked).cfg.rxMaxFrame ∧ ([0x01, 0xAA, 0xBB] : List Byte).length = (2 : Half).toNat + 1 ∧
      (idle checked).cfg.verifyRspChecksum = true ∧
      frameCheck (([0x01, 0xAA, 0xBB] : List Byte).drop 1) 0xD5 = .error .truncated ∧
      (idle smallest).cfg.verifyRspChecksum = false ∧
      frameCheck (([0x01, 0x00, 0x00, 0xFF, 0x02, 0xFE, 0xD5, 0x15, 0x16, 0x00] : List Byte).drop 1) tfiResponse =
        .ok () := by decide

theorem witness_CheckFrameResult :
    (idle smallest).st.quiescent = true ∧ (idle smallest).cfg.rxCap < (List.replicate 22 (0 : Byte)).length ∧
      ([0x00, 0x00, 0xFF, 0x02, 0xFE, 0xD4, 0x02, 0x2A, 0x00] : List Byte).length ≤ (idle smallest).cfg.rxCap ∧
      frameCheck [0x00, 0x00, 0xFF, 0x02, 0xFE, 0xD4, 0x02, 0x2A, 0x00] 0xD4 = .ok () ∧
      ([0x00, 0x00, 0xFF, 0x02, 0xFE, 0xD4, 0x02, 0x2A, 0x00] : List Byte)[3]? = some 0x02 ∧
      frameCheck [0x00, 0x00, 0xFF, 0x02, 0xFE, 0xD4, 0x02, 0x2A, 0x00] 0xD5 = .error .badDirection ∧
      frameCheck (List.replicate 21 0) 0xD5 = .error .badStartCode ∧
      (List.replicate 21 (0 : Byte)).length ≤ (idle smallest).cfg.rxCap := by decide

theorem witness_PureCodecOperationsTouchOnlyTheResult :
    (Instr.genChecksum []).op.pureCodec = true ∧ (Instr.checkFrame [] 0).op.pureCodec = true ∧
      (idle vectorParams).st.quiescent = true := by decide

theorem witness_SendingOperationsAreAccepted :
    (idle vectorParams).st.quiescent = true ∧ (idle vectorParams).cfg.Legal ∧
      (Instr.sendCommand [0x02] 0).wellFormed (idle vectorParams).cfg = true ∧
      (Instr.transceive [0x02] 262 0xFFFFFFFF).wellFormed (idle vectorParams).cfg = true ∧
      (idle { vectorParams with maxPayload := 3 }).cfg.Legal ∧
      3 ≤ (idle { vectorParams with maxPayload := 3 }).cfg.maxPayload := by decide

theorem witness_PollingOperationsAreAccepted :
    (idle smallest).st.quiescent = true ∧ (20 : Half).toNat ≤ (idle smallest).cfg.rxMaxFrame := by decide

theorem witness_SessionArgumentErrors :
    (idle smallest).st.quiescent = true ∧ (idle smallest).cfg.maxPayload < [(0 : Byte), 0].length ∧
      [(0 : Byte), 0].length ≤ (idle smallest).cfg.rxCap ∧ (20 : Half).toNat ≤ (idle smallest).cfg.rxMaxFrame ∧
      (List.replicate 21 (0 : Byte)).length ≤ (idle smallest).cfg.rxCap ∧
      (idle smallest).cfg.rxMaxFrame < (21 : Half).toNat ∧ (idle smallest).cfg.maxPayload < 3 ∧
      (idle { vectorParams with maxPayload := 2 }).cfg.maxPayload < 3 := by decide

theorem witness_ArgumentErrorsExactlyOutOfContract :
    (idle vectorParams).st.quiescent = true ∧ (Instr.verifyAck []).wellFormed (idle vectorParams).cfg = false := by decide

theorem witness_ArgumentChecksComeInOrder :
    (idle smallest).st.quiescent = true ∧ Op.all.all (fun o => (0x06 : Byte) != o.code) = true ∧
      (0x12 : Byte) = Op.transceive.code ∧ Op.transceive.readsData = true ∧ Op.transceive.readsExpLen = true ∧
      (idle smallest).cfg.rxCap < (List.replicate 22 (0 : Byte)).length ∧
      (List.replicate 21 (0 : Byte)).length ≤ (idle smallest).cfg.rxCap ∧
      (idle smallest).cfg.rxMaxFrame < (21 : Half).toNat ∧ Op.readResponse.readsExpLen = true ∧
      Op.readResponse.readsData = false := by decide

theorem witness_RequestWhileBusySetsTheMarkOnly :
    (sending []).st.quiescent = false ∧
      stateOf (step { sending [] with concurrent := true, caller := [.reset] }) =
        some { idle vectorParams with concurrent := true } := by decide

theorem witness_ResetAbandonsTheExchange :
    { sending [] with caller := [.reset] }.cfg.Legal ∧ { sending [] with caller := [.reset] }.regsLegal = true ∧
      { sending [] with caller := [.reset] }.caller = [.reset] := by decide

theorem witness_SendingStepWritesTheFrame :
    ((sending [.ioError]).Inv ∧ (sending [.ioError]).st = .sending ∧ WriteAnswered (sending [.ioError]) .ioError [] 0) ∧
      (sending [.writeOk]).Inv ∧ WriteAnswered (sending [.writeOk]) .writeOk [] 0 :=
  ⟨⟨sending_inv _, rfl, .inl ⟨rfl, rfl, rfl⟩⟩, sending_inv _, writeAnswered_script rfl⟩

/-- Each branch of the poll: the budget is spent exactly at `elapsed = timeout`. -/
theorem witness_PollStepFollowsItsRule :
    (let s := busy vectorParams .awaitReadyAck 0x12 13 20 [.ioError]
     s.opFits = true ∧ ReadAnswered s 1 .ioError [] 0) ∧
    (let s := busy vectorParams .awaitReadyAck 0x12 13 20 [.readOk [0x01]]
     s.opFits = true ∧ ReadAnswered s 1 (.readOk [0x01]) [] 0) ∧
    (let s := busy vectorParams .awaitReadyRsp 0x10 0 20 [.readOk [0x01]]
     s.opFits = true ∧ s.op = 0x10 ∧ ReadAnswered s 1 (.readOk [0x01]) [] 0) ∧
    (let s := busy vectorParams .awaitReadyRsp 0x13 9 20 [.readOk [0x01]]
     s.opFits = true ∧ s.op ≠ 0x10 ∧ ReadAnswered s 1 (.readOk [0x01]) [] 0) ∧
    (let s := busy vectorParams .awaitReadyAck 0x12 13 20 [.readOk [0x00]]
     s.opFits = true ∧ s.timeout.toNat ≤ s.elapsed ∧ ReadAnswered s 1 (.readOk [0x00]) [] 0) ∧
    (let s := busy vectorParams .awaitReadyRsp 0x12 13 19 [.readOk [0x80]]
     s.opFits = true ∧ s.elapsed < s.timeout.toNat ∧ (0x80 : Byte) ≠ 0x01 ∧ ReadAnswered s 1 (.readOk [0x80]) [] 0) :=
  ⟨⟨rfl, .inl ⟨rfl, rfl, rfl⟩⟩, ⟨rfl, readAnswered_script rfl rfl⟩, ⟨rfl, rfl, readAnswered_script rfl rfl⟩,
    ⟨rfl, by decide, readAnswered_script rfl rfl⟩, ⟨rfl, by decide, readAnswered_script rfl rfl⟩, rfl, by decide,
    by decide, readAnswered_script rfl rfl⟩

theorem witness_AckStepFollowsItsRule :
    (let s := busy vectorParams .awaitAck 0x12 13 0 [.ioError]
     s.opFits = true ∧ ReadAnswered s 7 .ioError [] 0) ∧
    (let R := [0x01, 0x00, 0x00, 0xFF, 0xFF, 0x00, 0x00]
     let s := busy vectorParams .awaitAck 0x12 13 0 [.readOk R]
     s.opFits = true ∧ R.drop 1 ≠ [0x00, 0x00, 0xFF, 0x00, 0xFF, 0x00] ∧ ReadAnswered s 7 (.readOk R) [] 0) ∧
    (let s := busy vectorParams .awaitAck 0x22 0 0 [goodAck 0x00]
     s.opFits = true ∧ s.op = 0x22 ∧ ReadAnswered s 7 (goodAck 0x00) [] 0) ∧
    (let s := busy vectorParams .awaitAck 0x21 9 0 [goodAck 0xFF]
     s.opFits = true ∧ s.op ≠ 0x11 ∧ s.op ≠ 0x22 ∧ ReadAnswered s 7 (goodAck 0xFF) [] 0) :=
  ⟨⟨rfl, .inl ⟨rfl, rfl, rfl⟩⟩, ⟨rfl, by decide, readAnswered_script rfl rfl⟩, ⟨rfl, rfl, readAnswered_script rfl rfl⟩,
    rfl, by decide, by decide, readAnswered_script rfl rfl⟩

/-- A failed read, a failed check, and the longest response the smallest instance takes. -/
theorem witness_ResponseStepFollowsItsRule :
    (let s := busy vectorParams .awaitRsp 0x13 9 0 [.ioError]
     s.Inv ∧ ReadAnswered s (s.expLen + 1) .ioError [] 0) ∧
    (let R : List Byte := [0x01, 0x00, 0x00, 0xFF, 0x00, 0xFF, 0x00, 0x00, 0x00, 0x00]
     let s := busy checked .awaitRsp 0x13 9 0 [.readOk R]
     s.Inv ∧ s.cfg.verifyRspChecksum = true ∧ frameCheck (R.drop 1) 0xD5 = .error .badLengthChecksum ∧
       ReadAnswered s (s.expLen + 1) (.readOk R) [] 0) ∧
    (let R : List Byte := List.replicate 21 0
     let s := busy smallest .awaitRsp 0x13 20 0 [.readOk R]
     s.Inv ∧ ResponseAccepted s.cfg (R.drop 1) ∧ (s.op = 0x12 ∨ s.op = 0x13) ∧
        ReadAnswered s (s.expLen + 1) (.readOk R) [] 0) :=
  ⟨⟨raw_inv _ (by decide) _ (by decide) _, .inl ⟨rfl, rfl, rfl⟩⟩,
    ⟨raw_inv _ (by decide) _ (by decide) _, rfl, by decide, readAnswered_script rfl rfl⟩,
    raw_inv _ (by decide) _ (by decide) _, .inl rfl, .inr rfl, readAnswered_script rfl rfl⟩

theorem witness_FirmwareResponseIsInterpreted :
    (let R : List Byte := [0x01, 0x00, 0x00, 0xFF, 0x06, 0xFB, 0xD5, 0x03, 0x32, 0x01, 0x06, 0x07, 0xE8, 0x00]
     let s := busy vectorParams .awaitRsp 0x20 13 0 [.readOk R]
     s.Inv ∧ s.op = 0x20 ∧ ReadAnswered s (s.expLen + 1) (.readOk R) [] 0 ∧ ResponseAccepted s.cfg (R.drop 1) ∧
        (R.drop 1).take 6 ≠ [0x00, 0x00, 0xFF, 0x06, 0xFA, 0xD5]) ∧
    (let R : List Byte := [0x01, 0x00, 0x00, 0xFF, 0x06, 0xFA, 0xD5, 0x03, 0x32, 0x01, 0x06, 0x07, 0xE8, 0x00]
     let s := busy checked .awaitRsp 0x20 13 0 [.readOk R]
     s.Inv ∧ s.op = 0x20 ∧ ReadAnswered s (s.expLen + 1) (.readOk R) [] 0 ∧ ResponseAccepted s.cfg (R.drop 1) ∧
        (R.drop 1).take 6 = [0x00, 0x00, 0xFF, 0x06, 0xFA, 0xD5] ∧
        ((R.drop 1).drop 7).take 4 = [0x32, 0x01, 0x06, 0x07]) :=
  ⟨⟨firmware_inv _ (by decide) _, rfl, readAnswered_script rfl rfl, .inl rfl, by decide⟩,
    firmware_inv _ (by decide) _, rfl, readAnswered_script rfl rfl, .inr (by decide), by decide, by decide⟩

theorem witness_SamResponseIsInterpreted :
    (let R : List Byte := [0x01, 0x00, 0x00, 0xFF, 0x02, 0xFE, 0xD5, 0x7F, 0xAC, 0x00]
     let s := busy vectorParams .awaitRsp 0x21 9 0 [.readOk R]
     s.Inv ∧ s.op = 0x21 ∧ ReadAnswered s (s.expLen + 1) (.readOk R) [] 0 ∧ ResponseAccepted s.cfg (R.drop 1) ∧
        (R.drop 1)[s.cfg.samOkOffset.val]? ≠ some s.cfg.samOkMarker) ∧
    (let R : List Byte := [0x01, 0xAA, 0xAA, 0xAA, 0xAA, 0xAA, 0xAA, 0xAA, 0xAA, 0x15]
     let s := busy { vectorParams with samOkOffset := 8 } .awaitRsp 0x21 9 0 [.readOk R]
     s.Inv ∧ s.op = 0x21 ∧ ReadAnswered s (s.expLen + 1) (.readOk R) [] 0 ∧ ResponseAccepted s.cfg (R.drop 1) ∧
        (R.drop 1)[s.cfg.samOkOffset.val]? = some s.cfg.samOkMarker) :=
  ⟨⟨sam_inv _ (by decide) _, rfl, readAnswered_script rfl rfl, .inl rfl, by decide⟩,
    sam_inv _ (by decide) _, rfl, readAnswered_script rfl rfl, .inl rfl, by decide⟩

/-- No target, one byte too many, and a UID that ends with the response. -/
theorem witness_DetectionResponseIsInterpreted :
    (let R : List Byte := [0x01, 0x00, 0x00, 0xFF, 0x03, 0xFD, 0xD5, 0x4B, 0x00] ++ List.replicate 12 0
     let s := busy vectorParams .awaitRsp 0x23 20 0 [.readOk R]
     s.Inv ∧ s.op = 0x23 ∧ ReadAnswered s (s.expLen + 1) (.readOk R) [] 0 ∧ ResponseAccepted s.cfg (R.drop 1) ∧
        (R.drop 1)[s.cfg.nbtgOffset.val]? ≠ some 0x01) ∧
    (let R : List Byte := [0x01, 0x00, 0x00, 0xFF, 0x0C, 0xF4, 0xD5, 0x4B, 0x01, 0x01, 0x00, 0x04, 0x08, 0x08, 0xDE,
       0xAD, 0xBE, 0xEF, 0x96, 0x00, 0x00]
     let s := busy vectorParams .awaitRsp 0x23 20 0 [.readOk R]
     s.Inv ∧ s.op = 0x23 ∧ ReadAnswered s (s.expLen + 1) (.readOk R) [] 0 ∧ ResponseAccepted s.cfg (R.drop 1) ∧
        (R.drop 1)[s.cfg.nbtgOffset.val]? = some 0x01 ∧ (R.drop 1)[s.cfg.uidLenOffset.val]? = some 0x08 ∧
        20 < s.cfg.uidOffset.val + (0x08 : Byte).toNat) ∧
    (let R : List Byte := [0x01, 0x00, 0x00, 0xFF, 0x0F, 0xF1, 0xD5, 0x4B, 0x01, 0x01, 0x00, 0x44, 0x00, 0x07, 0x04,
       0x11, 0x22, 0x33, 0x44, 0x55, 0x66]
     let s := busy vectorParams .awaitRsp 0x23 20 0 [.readOk R]
     s.Inv ∧ s.op = 0x23 ∧ ReadAnswered s (s.expLen + 1) (.readOk R) [] 0 ∧ ResponseAccepted s.cfg (R.drop 1) ∧
        (R.drop 1)[s.cfg.nbtgOffset.val]? = some 0x01 ∧ (R.drop 1)[s.cfg.uidLenOffset.val]? = some 0x07 ∧
        s.cfg.uidOffset.val + (0x07 : Byte).toNat ≤ 20) :=
  ⟨⟨target_inv _ (by decide) _, rfl, readAnswered_script rfl rfl, .inl rfl, by decide⟩,
    ⟨target_inv _ (by decide) _, rfl, readAnswered_script rfl rfl, .inl rfl, by decide, by decide, by decide⟩,
    target_inv _ (by decide) _, rfl, readAnswered_script rfl rfl, .inl rfl, by decide, by decide, by decide⟩

/-- An idle session whose transport answers at once. -/
def answering (answers : List PortAnswer) : State := { idle checked with transport := answers }

theorem witness_SendOnlyExchangesComplete :
    let s := answering ([.writeOk, .readOk [0x01], goodAck 0x01] ++ [.ioError])
    s.st.quiescent = true ∧ s.cfg.Legal ∧ s.caller = [] ∧ (Instr.sendCommand [0x02] 0).wellFormed s.cfg = true ∧
      3 ≤ s.cfg.maxPayload := by decide

theorem witness_TransceiveExchangeCompletes :
    let d : List Byte := [0x00, 0x00, 0xFF, 0x02, 0xFE, 0xD5, 0x15, 0x16, 0x00]
    let s := answering ([.writeOk, .readOk [0x01], goodAck 0x01, .readOk [0x01], .readOk (0x01 :: d)] ++ [])
    s.st.quiescent = true ∧ s.cfg.Legal ∧ s.caller = [] ∧ (Instr.transceive [0x14] 9 0).wellFormed s.cfg = true ∧
      d.length = (9 : Half).toNat ∧ ResponseAccepted s.cfg d :=
  ⟨rfl, by decide, rfl, by decide, rfl, .inr (by decide)⟩

theorem witness_FirmwareExchangeCompletes :
    let d : List Byte := [0x00, 0x00, 0xFF, 0x06, 0xFA, 0xD5, 0x03, 0x32, 0x01, 0x06, 0x07, 0xE8, 0x00]
    let s := answering ([.writeOk, .readOk [0x01], goodAck 0x01, .readOk [0x01], .readOk (0x01 :: d)] ++ [])
    s.st.quiescent = true ∧ s.cfg.Legal ∧ s.caller = [] ∧ ResponseAccepted s.cfg d :=
  ⟨rfl, by decide, rfl, .inr (by decide)⟩

theorem witness_SamExchangeCompletes :
    let d : List Byte := [0x00, 0x00, 0xFF, 0x02, 0xFE, 0xD5, 0x15, 0x16, 0x00]
    let s := answering ([.writeOk, .readOk [0x01], goodAck 0x01, .readOk [0x01], .readOk (0x01 :: d)] ++ [])
    s.st.quiescent = true ∧ s.cfg.Legal ∧ 3 ≤ s.cfg.maxPayload ∧ s.caller = [] ∧ d.length = 9 ∧
      d[s.cfg.samOkOffset.val]? = some s.cfg.samOkMarker ∧ ResponseAccepted s.cfg d :=
  ⟨rfl, by decide, by decide, rfl, rfl, by decide, .inr (by decide)⟩

theorem witness_ReadOnlyExchangesComplete :
    let d : List Byte := [0x00, 0x00, 0xFF, 0x0C, 0xF4, 0xD5, 0x4B, 0x01, 0x01, 0x00, 0x04, 0x08, 0x04, 0xDE, 0xAD, 0xBE,
      0xEF, 0x96, 0x00, 0x00]
    let s := answering ([.readOk [0x01], .readOk (0x01 :: d)] ++ [])
    s.st.quiescent = true ∧ s.cfg.Legal ∧ s.caller = [] ∧ ResponseAccepted s.cfg d ∧
      (20 : Half).toNat ≤ s.cfg.rxMaxFrame ∧ d.length = (20 : Half).toNat ∧
      d[s.cfg.nbtgOffset.val]? = some 0x01 ∧ d[s.cfg.uidLenOffset.val]? = some 0x04 ∧
      s.cfg.uidOffset.val + (0x04 : Byte).toNat ≤ 20 :=
  ⟨rfl, by decide, rfl, .inr (by decide), by decide, rfl, by decide, by decide, by decide⟩

/-- spec/95_test_vectors.md X4, the row T = 20: three reads; and ready at the third read. -/
theorem witness_PollLoopEndsWithinItsBound :
    (let bs : List Byte := [0x00, 0x02, 0xFF]
     let s := busy vectorParams .awaitReadyAck 0x12 13 0 (bs.map (fun b => .readOk [b]) ++ [])
     s.cfg.Legal ∧ s.regsLegal = true ∧ s.opFits = true ∧ s.caller = [] ∧ s.elapsed = 0 ∧ (∀ b ∈ bs, b ≠ 0x01) ∧
        bs.length = pollReads s.timeout.toNat s.cfg.pollInterval) ∧
    (let bs : List Byte := [0x00, 0x00]
     let s := busy vectorParams .awaitReadyRsp 0x10 0 0 (bs.map (fun b => .readOk [b]) ++ [.readOk [0x01]])
     s.cfg.Legal ∧ s.regsLegal = true ∧ s.opFits = true ∧ s.caller = [] ∧ s.elapsed = 0 ∧ (∀ b ∈ bs, b ≠ 0x01) ∧
        bs.length < pollReads s.timeout.toNat s.cfg.pollInterval) := by decide

theorem witness_EveryExchangeTerminates :
    let s := answering []
    s.st.quiescent = true ∧ s.cfg.Legal ∧ s.caller = [] ∧ (stateOf (exec (.getFirmwareVersion 100) s)).isSome = true := by
  decide

theorem witness_ExchangeDependsOnRequestAndAnswersOnly :
    let s₁ := answering [.writeOk]
    let s₂ := { answering [.writeOk] with st := .failed, rxlen := 3, elapsed := 9, concurrent := true }
    s₁.st.quiescent = true ∧ s₂.st.quiescent = true ∧ s₁.cfg = s₂.cfg ∧ s₁.caller = [] ∧ s₂.caller = [] ∧
      s₁.transport = s₂.transport ∧ s₁.oracleCalls = s₂.oracleCalls ∧
      (stateOf (exec .configureSam s₁)).isSome = true ∧ (stateOf (exec .configureSam s₂)).isSome = true := by decide

theorem witness_EveryStepKeepsTheInvariant :
    (sending [.writeOk]).Inv ∧ (stateOf (step (sending [.writeOk]))).isSome = true := ⟨sending_inv _, by decide⟩

theorem witness_InvariantStatesAlwaysStep :
    (sending []).Inv ∧ (busy vectorParams .awaitRsp 0x23 20 0 []).Inv := ⟨sending_inv _, target_inv _ (by decide) _⟩

theorem witness_NoStepChangesTheParameters :
    (stateOf (step { sending [] with caller := [.reset] })).isSome = true := by decide

theorem witness_SessionFollowsTheTransitionTable :
    (sending [.writeOk]).st.quiescent = false ∧ (stateOf (sessionStep (sending [.writeOk]))).isSome = true := by decide

theorem witness_TerminalStatesAreLeftByTheCallerOnly :
    (let s := { idle vectorParams with st := .timedOut }
     s.st.quiescent = true ∧ s.caller = [] ∧ (stateOf (step s)).isSome = true) ∧
    (let s := { idle vectorParams with st := .done, caller := [.pass] }
     s.st.quiescent = true ∧ (stateOf (step s)).isSome = true) ∧
    (let s := { idle vectorParams with st := .failed, caller := [.present { opsel := 0x10 }] }
     s.st.quiescent = true ∧ (stateOf (step s)).map (fun t => t.st) = some .awaitReadyRsp) := by decide

theorem witness_PollLoopEntryZeroesElapsed :
    (let s := { idle vectorParams with elapsed := 30 }
     s.st.quiescent = true ∧ (stateOf (exec (.waitReady 0) s)).map (fun t => t.st) = some .awaitReadyRsp) ∧
    (stateOf (sessionStep { sending [.writeOk] with elapsed := 30 })).map (fun t => t.st) = some .awaitReadyAck ∧
    (stateOf (sessionStep (busy vectorParams .awaitAck 0x12 13 30 [goodAck 0x01]))).map (fun t => t.st) =
      some .awaitReadyRsp := by decide

theorem witness_OutcomeIsWrittenAtTerminalEntryOnly :
    (sending [.writeOk]).st.quiescent = false ∧
      (stateOf (sessionStep (sending [.writeOk]))).map (fun t => t.st.quiescent) = some false ∧
      (stateOf (sessionStep (sending [.ioError]))).map (fun t => t.st) = some .failed ∧
      (stateOf (sessionStep (busy vectorParams .awaitReadyAck 0x12 13 20 [.readOk [0x00]]))).map (fun t => t.st) =
        some .timedOut ∧
      (stateOf (sessionStep (busy vectorParams .awaitAck 0x12 13 0
          [.readOk [0x01, 0x00, 0x00, 0xFF, 0xFF, 0x00, 0x00]]))).map (fun t => (t.st, t.status)) =
        some (.failed, 0x04) := by decide

theorem witness_StepEventsHaveTheirWidths :
    (stateOf (sessionStep (busy vectorParams .awaitReadyAck 0x12 13 0 [.readOk [0x00]]))).map
      (fun t => t.history.length) = some 2 := by decide

theorem witness_EveryWriteIsACommandFrame :
    (sending [.writeOk]).Inv ∧
      (stateOf (step (sending [.writeOk]))).map (fun t => t.history) =
        some [.write 0 [0x00, 0x00, 0xFF, 0x02, 0xFE, 0xD4, 0x02, 0x2A, 0x00] .writeOk] := ⟨sending_inv _, by decide⟩

/-- A next state with and without a reset, a fault, and a refusal. -/
theorem witness_HistoryIsNeverRead :
    (stateOf (step (sending [.writeOk]))).isSome = true ∧
      (stateOf (step { sending [] with caller := [.reset], history := [.sleep 1] })).map (fun t => t.history) =
        some [] ∧
      (match step { sending [] with reason := 0x09 } with
        | .fault .badState => true
        | _ => false) = true ∧
      (match step (idle { vectorParams with maxPayload := 0 }) with
        | .refused .illegalParameters => true
        | _ => false) = true := by decide

theorem witness_ResultsAreReadableWhenQuiescent :
    (sending []).Inv ∧ (sending []).st.quiescent = false ∧ (idle vectorParams).st.quiescent = true ∧
      (idle vectorParams).resultRecord.isSome = true ∧
      { idle vectorParams with st := .failed, rxbuf := [(0, 0x01), (1, 0x80)], rxlen := 2 }.diagnosticBytes =
        some [0x01, 0x80] := ⟨sending_inv _, by decide⟩

theorem witness_ErrorCodesTellEveryErrorApart :
    (Err.ioError .readyReadFailed).status = (Err.ioError .readyReadFailed).status ∧
      (Err.ioError .readyReadFailed).reason = (Err.timedOut .forResponse).reason := by decide

end Sys2Proof.Tests
end

section
/-! SUPPORT. The transactions a session step issues (spec/20_memory.md R53), and the statement about them. -/

namespace Sys2Proof.Machine

/-- Every move of a busy session records one transaction of the width of its state; only a poll that goes on records more,
the interval sleep after its read (spec/41_session_fsm.md R145). -/
theorem SessionMove.history_cases {s t : State} {o : Op} (h : SessionMove s o t) :
    ∃ ev, ev.isTransaction = true ∧ ev.widthOf s ∧
      (t.history = s.history ++ [ev] ∨
        ((s.st = .awaitReadyAck ∨ s.st = .awaitReadyRsp) ∧
          t.history = s.history ++ [ev, .sleep s.cfg.pollInterval])) := by
  cases h with
  | slept ev rest k hw ht hs => exact ⟨ev, ht, hw, .inr ⟨hs, by simp [State.afterEvent]⟩⟩
  | failedStored n rest k R e hw => exact ⟨_, rfl, hw, .inl rfl⟩
  | failed ev rest k e hw ht
  | written ev rest k hw ht
  | readyForAck ev rest k hw ht
  | readyForResponse ev rest k hw ht
  | waited ev rest k hw ht
  | acked ev rest k R hw ht
  | ackedToPoll ev rest k R hw ht
  | gave ev rest k R c r hw ht
  | gaveBytes ev rest k R c r bs hw ht => exact ⟨ev, ht, hw, .inl rfl⟩

/-- Settles O52: a quiescent session records nothing, and a busy one what its move records. -/
theorem stepEventsHaveTheirWidths : Obligations.StepEventsHaveTheirWidths := by
  intro s t h
  cases hb : s.st.quiescent with
  | true =>
    obtain rfl := Host.Outcome.next.inj ((sessionStep_quiescent hb).symm.trans h)
    exact ⟨[], by simp⟩
  | false =>
    obtain ⟨o, -, -, hmove⟩ := sessionStep_move hb h
    obtain ⟨ev, ht, hw, hh | ⟨hpoll, hh⟩⟩ := hmove.history_cases
    · exact ⟨[ev], hh, by simp [ht], by simpa using hw⟩
    · have hsleep : (Event.sleep s.cfg.pollInterval).widthOf s := ⟨rfl, hpoll⟩
      have hno : (Event.sleep s.cfg.pollInterval).isTransaction = false := rfl
      exact ⟨[ev, .sleep s.cfg.pollInterval], hh, by simp [ht, hno], by simp [hw, hsleep]⟩

end Sys2Proof.Machine
end

section
/-! SUPPORT. The frame codec in exact arithmetic and index by index (spec/40_codec.md R101 to R126, spec/30_encoding.md
R73), and the statements about its functions. -/

namespace Sys2Proof.Machine

/-! ### Checksums (spec/00_scope.md R10) -/

theorem sum8_toNat (S : List Byte) : (sum8 S).toNat = (S.map BitVec.toNat).sum % 256 := rfl

theorem csum_toNat (D : List Byte) : (csum D).toNat = (256 - (D.map BitVec.toNat).sum % 256) % 256 := by
  rw [csum, neg8_toNat, sum8_toNat]

theorem csumOk_iff (D : List Byte) (c : Byte) : csumOk D c = true ↔ sum8 D + c = 0 := beq_iff_eq

/-- Settles O9: the check asks for a sum of zero, and a byte has one additive inverse. -/
theorem checksumIsTheOneAcceptedByte : Obligations.ChecksumIsTheOneAcceptedByte := fun D c =>
  ⟨csum_toNat D, (csumOk_iff D c).trans (sum8_add_eq_zero_iff D c),
    (csumOk_iff D c).trans (add_eq_zero_iff_eq_neg8 (sum8 D) c)⟩

/-! ### The layout of a frame (spec/30_encoding.md R73) -/

/-- The length field of a frame does not wrap. -/
theorem lengthByte_toNat {D : List Byte} (h : D.length ≤ 254) :
    (BitVec.ofNat 8 (D.length + 1)).toNat = D.length + 1 := by
  rw [BitVec.toNat_ofNat]; omega

theorem frameOf_data (t : Byte) (D : List Byte) {i : Nat} (h : i < D.length) : (frameOf t D)[6 + i]? = D[i]? := by
  rw [Nat.add_comm]
  simp [frameOf, startCode, List.getElem?_append_left h]

theorem frameOf_dataChecksum (t : Byte) (D : List Byte) : (frameOf t D)[6 + D.length]? = some (csum (t :: D)) := by
  rw [Nat.add_comm]
  simp [frameOf, startCode]

theorem frameOf_postamble (t : Byte) (D : List Byte) : (frameOf t D)[7 + D.length]? = some postamble := by
  rw [Nat.add_comm]
  simp [frameOf, startCode]

theorem slice_frameOf_data (t : Byte) (D : List Byte) : slice (frameOf t D) 6 (6 + D.length) = D := by
  simp [slice, frameOf, startCode]

/-- The bytes the data checksum covers: the direction byte and the data. -/
theorem slice_frameOf_checked (t : Byte) (D : List Byte) : slice (frameOf t D) 5 (6 + D.length) = t :: D := by
  simp [slice, frameOf, startCode, show 6 + D.length - 5 = D.length + 1 by omega]

/-- A frame written out, its two checksums as two's complements of their sums. -/
theorem frameOf_eq (t : Byte) (D : List Byte) :
    frameOf t D =
      [0x00, 0x00, 0xFF, BitVec.ofNat 8 (D.length + 1), neg8 (BitVec.ofNat 8 (D.length + 1)), t] ++ D ++
        [neg8 (sum8 (t :: D)), 0x00] := by
  have hsum (b : Byte) : sum8 [b] = b := by simp
  rw [frameOf, csum, csum, hsum]
  rfl

/-! ### The command serializer (spec/40_codec.md R105, R125) -/

theorem encodeFrame_empty {maxPayload : Nat} {P : List Byte} (h : P.length = 0) :
    encodeFrame maxPayload P = .error .payloadEmpty := if_pos h

theorem encodeFrame_tooLong {maxPayload : Nat} {P : List Byte} (h : maxPayload < P.length) :
    encodeFrame maxPayload P = .error .payloadTooLong :=
  (if_neg (Nat.ne_zero_of_lt h)).trans (if_pos h)

/-- Settles O10: the frame is `frameOf`, read byte by byte; the length field and its checksum do not wrap. -/
theorem encodedFrameHasTheCommandLayout : Obligations.EncodedFrameHasTheCommandLayout := by
  intro maxPayload P hmax
  refine ⟨encodeFrame_empty, encodeFrame_tooLong, fun h0 h1 => ?_⟩
  have hlen := lengthByte_toNat (h1.trans hmax)
  have hlcs : (csum [BitVec.ofNat 8 (P.length + 1)]).toNat = 256 - (P.length + 1) := by
    rw [csum_toNat, List.map_singleton, List.sum_singleton, hlen]
    omega
  refine ⟨frameOf tfiCommand P, encodeFrame_ok h0 h1, frameOf_length _ _, rfl, rfl, rfl, congrArg some hlen,
    congrArg some hlcs, rfl, fun i hi => frameOf_data _ _ hi, ?_, frameOf_postamble _ _⟩
  rw [frameOf_dataChecksum, Option.map_some, csum_toNat]
  rfl

/-- Settles O11: the frame check passes every frame laid out with its direction byte, so the encoder's. -/
theorem encodedFramePassesTheFrameCheck : Obligations.EncodedFramePassesTheFrameCheck := by
  intro maxPayload P hmax h0 h1
  have hP : P.length ≤ 254 := h1.trans hmax
  have hcheck : frameCheck (frameOf tfiCommand P) tfiCommand = .ok () := by simpa using frameCheck_append [] hP
  exact ⟨frameOf tfiCommand P, encodeFrame_ok h0 h1, hcheck, congrArg some (lengthByte_toNat hP),
    slice_frameOf_data _ _, rfl, by rw [frameOf_dataChecksum, slice_frameOf_checked]⟩

/-! ### The ack validator (spec/40_codec.md R110) -/

/-- Settles O14: the validator compares all bytes after the first, so a change of one of them is seen. -/
theorem ackValidatorAcceptsExactlyTheAck : Obligations.AckValidatorAcceptsExactlyTheAck := by
  intro B hB
  refine ⟨(ackMatches_iff hB).trans ⟨fun h => ?_, ?_⟩, fun i v hack h1 _ hv => ?_⟩
  · obtain ⟨b, rest, rfl⟩ := List.exists_cons_of_length_eq_add_one hB
    exact ⟨b, congrArg (b :: ·) h⟩
  · rintro ⟨b, rfl⟩
    rfl
  · by_contra hset
    rw [Bool.not_eq_false, ackMatches_iff (by simpa using hB), ← (ackMatches_iff hB).1 hack] at hset
    have hi := congrArg (·[i - 1]?) hset
    simp only [List.getElem?_drop, show 1 + (i - 1) = i by omega] at hi
    rw [List.getElem?_set_self (by omega)] at hi
    exact hv hi.symm

/-! ### The frame check (spec/40_codec.md R120) -/

theorem frameCheck_short {F : List Byte} (t : Byte) (h : F.length < 5) : frameCheck F t = .error .truncated := if_pos h

theorem frameCheck_badStart {F : List Byte} (t : Byte) (h : 5 ≤ F.length) (hs : F.take 3 ≠ startCode) :
    frameCheck F t = .error .badStartCode :=
  (if_neg (not_lt.2 h)).trans (if_pos hs)

/-- The last three tests, reached when the frame has every byte its length field announces. -/
theorem frameCheck_of_length {F : List Byte} {t L C d K p : Byte} (hs : F.take 3 = startCode) (hL : F[3]? = some L)
    (hC : F[4]? = some C) (hsum : L + C = 0) (hL0 : L.toNat ≠ 0) (hd : F[5]? = some d)
    (hK : F[5 + L.toNat]? = some K) (hp : F[6 + L.toNat]? = some p) :
    frameCheck F t =
      if d ≠ t then .error .badDirection
      else if sum8 ((F.drop 5).take L.toNat) + K ≠ 0 then .error .badDataChecksum
      else if p ≠ postamble then .error .badPostamble
      else .ok () := by
  have hlen : 6 + L.toNat < F.length := (List.getElem?_eq_some_iff.1 hp).1
  rw [frameCheck_of_start hs hL hC, if_neg (not_not.2 hsum), if_neg hL0, if_neg (by omega), byteAt_eq hd, byteAt_eq hK,
    byteAt_eq hp]

/-- Settles O57: each outcome is one branch of the chain of tests. -/
theorem frameCheckReportsTheFirstFailingTest : Obligations.FrameCheckReportsTheFirstFailingTest := by
  intro F t
  refine ⟨frameCheck_short t, frameCheck_badStart t, fun L C hs hL hC => ?_⟩
  have hsum : L + C = 0 ↔ (L.toNat + C.toNat) % 256 = 0 := by simpa using sum8_add_eq_zero_iff [L] C
  have hzero : L ≠ 0 → L.toNat ≠ 0 := fun h h0 => h (BitVec.eq_of_toNat_eq h0)
  have htests := frameCheck_of_start (t := t) hs hL hC
  refine ⟨fun h => ?_, fun h hL0 => ?_, fun h hL0 hlt => ?_, fun d K p h hL0 hd hK hp => ?_⟩
  · exact htests.trans (if_pos (mt hsum.1 h))
  · exact htests.trans ((if_neg (not_not.2 (hsum.2 h))).trans (if_pos (congrArg BitVec.toNat hL0)))
  · exact htests.trans ((if_neg (not_not.2 (hsum.2 h))).trans ((if_neg (hzero hL0)).trans (if_pos hlt)))
  · have htail := frameCheck_of_length (t := t) hs hL hC (hsum.2 h) (hzero hL0) hd hK hp
    have htotal := sum8_add_eq_zero_iff ((F.drop 5).take L.toNat) K
    refine ⟨fun hdt => ?_, fun hdt hne => ?_, fun hdt h0 hp0 => ?_, fun hdt h0 hp0 => ?_⟩
    · exact htail.trans (if_pos hdt)
    · exact htail.trans ((if_neg (not_not.2 hdt)).trans (if_pos (mt htotal.1 hne)))
    · exact htail.trans ((if_neg (not_not.2 hdt)).trans ((if_neg (not_not.2 (htotal.2 h0))).trans (if_pos hp0)))
    · exact htail.trans
        ((if_neg (not_not.2 hdt)).trans ((if_neg (not_not.2 (htotal.2 h0))).trans (if_neg (not_not.2 hp0))))

/-! ### The response deserializer (spec/40_codec.md R115, R126) -/

theorem unframeResponse_wrongLength (verify : Bool) {B : List Byte} {n : Nat} (h : B.length ≠ n + 1) :
    unframeResponse verify B n = .error .lengthMismatch := if_pos h

theorem unframeResponse_accepted {verify : Bool} {B : List Byte} {n : Nat} (h : B.length = n + 1)
    (hv : verify = false ∨ frameCheck (B.drop 1) tfiResponse = .ok ()) :
    unframeResponse verify B n = .ok (B.drop 1) := by
  rcases unframeResponse_cases verify B n with ⟨hne, -⟩ | ⟨-, -, he⟩ | ⟨-, hon, x, hx, -⟩
  · exact absurd h hne
  · exact he
  · rcases hv with hoff | hok
    · exact absurd (hoff.symm.trans hon) Bool.false_ne_true
    · cases hx.symm.trans hok

theorem unframeResponse_badFrame {verify : Bool} {B : List Byte} {n : Nat} {x : DecodeReason} (h : B.length = n + 1)
    (hv : verify = true) (hx : frameCheck (B.drop 1) tfiResponse = .error x) :
    unframeResponse verify B n = .error x := by
  rcases unframeResponse_cases verify B n with ⟨hne, -⟩ | ⟨-, hok, -⟩ | ⟨-, -, y, hy, he⟩
  · exact absurd h hne
  · rcases hok with hoff | hok
    · exact absurd (hoff.symm.trans hv) Bool.false_ne_true
    · cases hx.symm.trans hok
  · cases hx.symm.trans hy
    exact he

/-- Settles O15: the only success is the input without its first byte. -/
theorem decodedResponseIsASliceOfTheInput : Obligations.DecodedResponseIsASliceOfTheInput := by
  intro verify B n
  refine ⟨fun d hd => ?_, fun h => unframeResponse_accepted h (.inl rfl), unframeResponse_wrongLength verify⟩
  rcases unframeResponse_cases verify B n with ⟨-, he⟩ | ⟨hlen, -, he⟩ | ⟨-, -, x, -, he⟩
  · simp [he] at hd
  · obtain ⟨b, rest, rfl⟩ := List.exists_cons_of_length_eq_add_one hlen
    obtain rfl : rest = d := by simpa [he] using hd
    exact ⟨b, rfl, by simpa using hlen⟩
  · simp [he] at hd

end Sys2Proof.Machine
end

section
/-! SUPPORT. How a pure codec operation presented to a quiescent session completes (spec/40_codec.md R100), and the
statements about the five of them. -/

namespace Sys2Proof.Machine

/-- An error raised within acceptance ends the operation in `Failed` with no result. -/
theorem completesAtOnce_of_raise {i : Instr} {s : State} {e : Err} (hq : s.st.quiescent = true)
    (h : exec i s = .next ((s.clearForAccept i.op.code).raise e)) (hf : e.terminalState = .failed) :
    CompletesAtOnce i s .failed e.status e.reason false 0 [] :=
  ⟨_, h, rfl, ⟨hf, rfl, rfl, if_pos hq⟩, ⟨rfl, rfl, rfl, (Memory.holds_nil_iff _).2 Memory.empty_nil⟩,
    ⟨rfl, rfl, rfl, rfl, rfl, Memory.empty_nil, Memory.empty_nil⟩, ⟨rfl, rfl, rfl, rfl, rfl, rfl⟩⟩

/-- Data beyond the receive buffer is the first thing acceptance rejects, for every operation that reads it. -/
theorem completesAtOnce_dataTooLong {i : Instr} {s : State} {data : List Byte} {n : Option Half}
    {body : State → Result} (h : exec i s = accept i.op (some data) n body s) (hq : s.st.quiescent = true)
    (hd : s.cfg.rxCap < data.length) :
    CompletesAtOnce i s .failed 0x01 0x02 false 0 [] :=
  completesAtOnce_of_raise hq (h.trans (accept_dataTooLong hq hd)) rfl

/-- A `finish` within acceptance gives its results; a field it does not name keeps its acceptance value. -/
theorem completesAtOnce_of_finish {i : Instr} {s : State} {r : Results}
    (h : exec i s = (s.clearForAccept i.op.code).finish .ok r) (hl : (r.bytes.getD []).length ≤ s.cfg.rxMaxFrame) :
    CompletesAtOnce i s .done 0x00 0x00 (r.flag.getD false) (r.word.getD 0) (r.bytes.getD []) := by
  have hplan : ∀ m n, PlanCleared (((s.clearForAccept i.op.code).finishWord .ok r).withResultBytes m n) := fun _ _ =>
    ⟨rfl, rfl, rfl, rfl, rfl, Memory.empty_nil, Memory.empty_nil⟩
  have henv : ∀ m n, EnvKept s (((s.clearForAccept i.op.code).finishWord .ok r).withResultBytes m n) := fun _ _ =>
    ⟨rfl, rfl, rfl, rfl, rfl, rfl⟩
  cases hb : r.bytes with
  | none =>
    exact ⟨_, h.trans (finish_none _ hb), rfl, ⟨rfl, rfl, rfl, rfl⟩,
      ⟨rfl, rfl, rfl, (Memory.holds_nil_iff _).2 Memory.empty_nil⟩, hplan [] 0, henv [] 0⟩
  | some bs =>
    rw [hb] at hl
    exact ⟨_, h.trans (finish_bytes _ hb hl), rfl, ⟨rfl, rfl, rfl, rfl⟩,
      ⟨rfl, rfl, rfl, Memory.holds_setAll_nil bs⟩, hplan _ _, henv _ _⟩

/-! ### Each operation past the argument checks of acceptance, one lemma per answer of its function -/

section
variable {s : State} {data : List Byte} (hq : s.st.quiescent = true) (hd : data.length ≤ s.cfg.rxCap)
include hq hd

theorem exec_encodeCommand_ok {F : List Byte} (he : encodeFrame s.cfg.maxPayload data = .ok F) :
    exec (.encodeCommand data) s = (s.clearForAccept Op.encodeCommand.code).finish .ok { bytes := some F } := by
  simp only [exec, execEncodeCommand, accept_body (d := some data) (n := none) hq hd (Nat.zero_le _),
    State.clearForAccept_cfg, he]

theorem exec_encodeCommand_error {x : ArgReason} (he : encodeFrame s.cfg.maxPayload data = .error x) :
    exec (.encodeCommand data) s = .next ((s.clearForAccept Op.encodeCommand.code).raise (.invalidArgument x)) := by
  simp only [exec, execEncodeCommand, accept_body (d := some data) (n := none) hq hd (Nat.zero_le _),
    State.clearForAccept_cfg, he]

theorem exec_genChecksum :
    exec (.genChecksum data) s = (s.clearForAccept Op.genChecksum.code).finish .ok
      { word := some ((csum data).zeroExtend 32), bytes := some [csum data] } := by
  simp only [exec, execGenChecksum, accept_body (d := some data) (n := none) hq hd (Nat.zero_le _)]

theorem exec_verifyAck (h7 : data.length = ackReadLength) :
    exec (.verifyAck data) s =
      (s.clearForAccept Op.verifyAck.code).finish .ok { flag := some (ackMatches data) } := by
  simp only [exec, execVerifyAck, accept_body (d := some data) (n := none) hq hd (Nat.zero_le _),
    if_neg (not_not.2 h7)]

theorem exec_verifyAck_wrongLength (h7 : data.length ≠ ackReadLength) :
    exec (.verifyAck data) s =
      .next ((s.clearForAccept Op.verifyAck.code).raise (.invalidArgument .badAckLength)) := by
  simp only [exec, execVerifyAck, accept_body (d := some data) (n := none) hq hd (Nat.zero_le _), if_pos h7]

theorem exec_decodeResponse_ok {d : List Byte} {n : Half} (hn : n.toNat ≤ s.cfg.rxMaxFrame)
    (he : unframeResponse s.cfg.verifyRspChecksum data n.toNat = .ok d) :
    exec (.decodeResponse data n) s = (s.clearForAccept Op.decodeResponse.code).finish .ok { bytes := some d } := by
  simp only [exec, execDecodeResponse, accept_body (d := some data) (n := some n) hq hd hn,
    State.clearForAccept_cfg, he]

theorem exec_decodeResponse_error {n : Half} {x : DecodeReason} (hn : n.toNat ≤ s.cfg.rxMaxFrame)
    (he : unframeResponse s.cfg.verifyRspChecksum data n.toNat = .error x) :
    exec (.decodeResponse data n) s = .next ((s.clearForAccept Op.decodeResponse.code).raise (.decodeError x)) := by
  simp only [exec, execDecodeResponse, accept_body (d := some data) (n := some n) hq hd hn,
    State.clearForAccept_cfg, he]

theorem exec_checkFrame_ok {tfi : Byte} (he : frameCheck data tfi = .ok ()) :
    exec (.checkFrame data tfi) s = (s.clearForAccept Op.checkFrame.code).finish .ok
      { flag := some true, word := some ((byteAt data 3).zeroExtend 32) } := by
  simp only [exec, execCheckFrame, accept_body (d := some data) (n := none) hq hd (Nat.zero_le _), he]

theorem exec_checkFrame_error {tfi : Byte} {x : DecodeReason} (he : frameCheck data tfi = .error x) :
    exec (.checkFrame data tfi) s = .next ((s.clearForAccept Op.checkFrame.code).raise (.decodeError x)) := by
  simp only [exec, execCheckFrame, accept_body (d := some data) (n := none) hq hd (Nat.zero_le _), he]

end

/-! ### The statements -/

/-- Settles O17: past the length check the operation finishes at once, with the checksum as word and as byte. -/
theorem genChecksumResult : Obligations.GenChecksumResult := by
  intro data s hq
  have hroom := Params.room s.cfg
  have hl : [csum data].length ≤ s.cfg.rxMaxFrame := show 1 ≤ s.cfg.rxMaxFrame by omega
  exact ⟨fun hd => completesAtOnce_of_finish (exec_genChecksum hq hd) hl,
    fun hd => completesAtOnce_dataTooLong (execGenChecksum.eq_def data s) hq hd⟩

/-- Settles O18: one clause for each answer of the encoder, and the length check before it. -/
theorem encodeCommandResult : Obligations.EncodeCommandResult := by
  intro data s hq _
  have hroom := Params.room s.cfg
  refine ⟨fun h0 h1 => ?_, fun h0 => ?_, fun h1 hd => ?_, fun hd => ?_⟩
  · have hd : data.length ≤ s.cfg.rxCap := by omega
    have hl : (frameOf tfiCommand data).length ≤ s.cfg.rxMaxFrame := by rw [frameOf_length]; omega
    have h := completesAtOnce_of_finish (exec_encodeCommand_ok hq hd (encodeFrame_ok h0 h1)) hl
    rwa [Option.getD_some, frameOf_eq] at h
  · have hd : data.length ≤ s.cfg.rxCap := by omega
    exact completesAtOnce_of_raise hq (exec_encodeCommand_error hq hd (encodeFrame_empty h0)) rfl
  · exact completesAtOnce_of_raise hq (exec_encodeCommand_error hq hd (encodeFrame_tooLong h1)) rfl
  · exact completesAtOnce_dataTooLong (execEncodeCommand.eq_def data s) hq hd

/-- Settles O19: the validator's answer is the flag, and only the length of its input can fail. -/
theorem verifyAckResult : Obligations.VerifyAckResult := by
  intro data s hq
  have hroom := Params.room s.cfg
  refine ⟨fun h7 => ?_, fun h7 hd => ?_, fun hd => ?_⟩
  · have hd : data.length ≤ s.cfg.rxCap := by omega
    have hack : ackMatches data = (data.drop 1 == ackFrame) := congrArg (· == ackFrame) (slice_one_all h7)
    have h := completesAtOnce_of_finish (exec_verifyAck hq hd h7) (Nat.zero_le _)
    rwa [Option.getD_some, hack] at h
  · exact completesAtOnce_of_raise hq (exec_verifyAck_wrongLength hq hd h7) rfl
  · exact completesAtOnce_dataTooLong (execVerifyAck.eq_def data s) hq hd

/-- Settles O20: the two argument checks, then one clause for each answer of the deserializer. -/
theorem decodeResponseResult : Obligations.DecodeResponseResult := by
  intro data n s hq
  have hroom := Params.room s.cfg
  refine ⟨fun hd => ?_, fun hd hn => ?_, fun hd hn hne => ?_, fun hn hlen hacc => ?_, fun x hn hlen hv hx => ?_⟩
  · exact completesAtOnce_dataTooLong (execDecodeResponse.eq_def data n s) hq hd
  · have hexec := (execDecodeResponse.eq_def data n s).trans (accept_expLenTooLarge hq hd hn)
    exact completesAtOnce_of_raise (i := .decodeResponse data n) hq hexec rfl
  · exact completesAtOnce_of_raise hq (exec_decodeResponse_error hq hd hn (unframeResponse_wrongLength _ hne)) rfl
  · have hd : data.length ≤ s.cfg.rxCap := by omega
    have hl : (data.drop 1).length ≤ s.cfg.rxMaxFrame := by rw [List.length_drop]; omega
    exact completesAtOnce_of_finish (exec_decodeResponse_ok hq hd hn (unframeResponse_accepted hlen hacc)) hl
  · have hd : data.length ≤ s.cfg.rxCap := by omega
    exact completesAtOnce_of_raise hq (exec_decodeResponse_error hq hd hn (unframeResponse_badFrame hlen hv hx)) rfl

/-- Settles O21: the check's answer is the outcome; a frame that passes has the length byte the word is read from. -/
theorem checkFrameResult : Obligations.CheckFrameResult := by
  intro data tfi s hq
  refine ⟨fun hd => ?_, fun L hd hok hL => ?_, fun x hd hx => ?_⟩
  · exact completesAtOnce_dataTooLong (execCheckFrame.eq_def data tfi s) hq hd
  · have h := completesAtOnce_of_finish (exec_checkFrame_ok hq hd hok) (Nat.zero_le _)
    rwa [byteAt_eq hL] at h
  · exact completesAtOnce_of_raise hq (exec_checkFrame_error hq hd hx) rfl

end Sys2Proof.Machine
end

section
/-! SUPPORT. One session step in `Sending`, in a poll and in `AwaitAck`, branch by branch (spec/41_session_fsm.md R143 to
R148), and the statements about them. -/

namespace Sys2Proof.Machine

/-! ### How a step ends -/

/-- A busy session records where the error was raised (spec/60_exceptions.md R236). -/
theorem raise_busy {s : State} {t : St} (e : Err) (hs : s.st = t) (hb : t.quiescent = false) :
    s.raise e = { s with status := e.status, reason := e.reason, failState := t, st := e.terminalState } := by
  rw [State.raise, hs, hb, if_neg Bool.false_ne_true]

/-- Which loop timed out, as the reason code (spec/60_exceptions.md R232). -/
theorem pollTimeoutReason_code (t : St) :
    (Err.timedOut (pollTimeoutReason t)).reason = if t = .awaitReadyAck then 0x01 else 0x02 := by
  unfold pollTimeoutReason; split <;> rfl

/-- An error ends in a terminal state. -/
theorem Err.terminalState_cases (e : Err) : e.terminalState = .timedOut ∨ e.terminalState = .failed := by
  cases e with
  | timedOut => exact .inl rfl
  | invalidArgument | ioError | ackMismatch | protocolError | decodeError => exact .inr rfl

/-- The register ranges of spec/10_state.md R24, one by one. -/
theorem regsLegal_iff (s : State) :
    s.regsLegal = true ↔
      s.expLen ≤ s.cfg.rxMaxFrame ∧ s.txlen ≤ s.cfg.maxCmdFrame ∧ s.rxlen ≤ s.cfg.rxCap ∧
        s.resLen ≤ s.cfg.rxMaxFrame ∧ statusLegal s.status = true ∧ reasonLegal s.reason = true := by
  simp only [State.regsLegal, Bool.and_eq_true, decide_eq_true_eq, and_assoc]

/-- What `MemWrite` from index 0 on leaves in `rxbuf`. -/
theorem rxStored_setAll (s : State) (R : List Byte) : RxStored s R (Memory.setAll s.rxbuf 0 R) :=
  ⟨fun i hi => by simpa using Memory.get_setAll_inside s.rxbuf 0 R hi,
    fun i hi => Memory.get_setAll_outside s.rxbuf R (.inr (by omega))⟩

/-- In a state of the invariant the frame can be read from `txbuf`. -/
theorem State.Inv.memRead_txbuf {s : State} (h : s.Inv) :
    memRead s.txbuf s.cfg.maxCmdFrame 0 s.txlen = .ok (s.txbuf.map Prod.snd) := by
  obtain ⟨hfilled, hlen⟩ := h.tx
  obtain ⟨-, htx, -⟩ := (regsLegal_iff s).1 h.regs
  have hread := Memory.getAll_of_holds (Memory.holds_of_filled hfilled)
  rw [List.length_map, hlen] at hread
  exact memRead_ok (by omega) hread

/-! ### The branches after a ready byte and after a good ack -/

theorem pollReady_forAck {s : State} (hs : s.st = .awaitReadyAck) : pollReady s = .next { s with st := .awaitAck } := by
  simp only [pollReady, hs]

theorem pollReady_waitReady {s : State} (hs : s.st = .awaitReadyRsp) (ho : s.op = 0x10) :
    pollReady s = .next (s.finishWord .ok {}) := by
  have hc : (Op.ofCode 0x10).bind Op.afterReady = some .finish := rfl
  simp only [pollReady, hs, ho, hc, finish_none]

theorem pollReady_forResponse {s : State} (hs : s.st = .awaitReadyRsp) (hf : s.opFits = true) (ho : s.op ≠ 0x10) :
    pollReady s = .next { s with st := .awaitRsp } := by
  obtain ⟨o, hoc, hcode, hfit⟩ := opFits_busy hf (by rw [hs]; rfl)
  have hread : o.afterReady = some .readResponse := by
    rw [hs] at hfit
    rw [hcode] at ho
    cases o with
    | waitReady => exact absurd rfl ho
    | transceive | readResponse | getFirmwareVersion | configureSam | readDetectedTarget => rfl
    | encodeCommand | genChecksum | verifyAck | decodeResponse | checkFrame | sendCommand
    | startPassiveDetection => exact absurd hfit (by decide)
  simp only [pollReady, hs, hoc, Option.bind_some, hread]

theorem ackGood_finish {s : State} (ho : s.op = 0x11 ∨ s.op = 0x22) : ackGood s = .next (s.finishWord .ok {}) := by
  have hc : (Op.ofCode s.op).bind Op.afterAck = some .finish := by rcases ho with ho | ho <;> rw [ho] <;> rfl
  simp only [ackGood, hc, finish_none]

theorem ackGood_poll {s : State} (hs : s.st = .awaitAck) (hf : s.opFits = true) (h1 : s.op ≠ 0x11) (h2 : s.op ≠ 0x22) :
    ackGood s = .next (s.enterPoll .awaitReadyRsp) := by
  obtain ⟨o, hoc, hcode, hfit⟩ := opFits_busy hf (by rw [hs]; rfl)
  have hpoll : o.afterAck = some .pollResponse := by
    rw [hs] at hfit
    rw [hcode] at h1 h2
    cases o with
    | sendCommand => exact absurd rfl h1
    | startPassiveDetection => exact absurd rfl h2
    | transceive | getFirmwareVersion | configureSam => rfl
    | encodeCommand | genChecksum | verifyAck | decodeResponse | checkFrame | waitReady | readResponse
    | readDetectedTarget => exact absurd hfit (by decide)
  simp only [ackGood, hoc, Option.bind_some, hpoll]

/-! ### What every step keeps, and poll-loop entry -/

/-- A session step keeps the parameters, the operation, its plan and its frame, and what is the caller's. -/
theorem SessionMove.kept {s t : State} {o : Op} (h : SessionMove s o t) :
    t.cfg = s.cfg ∧ t.op = s.op ∧ t.timeout = s.timeout ∧ t.caller = s.caller := by
  cases h <;> exact ⟨rfl, rfl, rfl, rfl⟩

/-- Every poll-loop entry zeroes `elapsed`: only `written` and `ackedToPoll` enter a poll state from another. -/
theorem SessionMove.elapsed_of_entry {s t : State} {o : Op} (h : SessionMove s o t) (hne : t.st ≠ s.st)
    (ht : t.st = .awaitReadyAck ∨ t.st = .awaitReadyRsp) : t.elapsed = 0 := by
  cases h with
  | written | ackedToPoll => rfl
  | slept => exact absurd rfl hne
  | failed _ _ _ e | failedStored _ _ _ _ e =>
    rcases e.terminalState_cases with he | he <;> simp [he] at ht
  | readyForAck | readyForResponse | waited | acked | gave | gaveBytes => simp at ht

/-- Acceptance leaves no time spent. -/
theorem Accepted.elapsed_eq {i : Instr} {s t : State} (h : Accepted i s t) : t.elapsed = 0 := by
  cases h <;> rfl

/-! ### The statements -/

/-- Settles O30: `txbuf` holds the frame and can be read, and each of the two answers of a write has its end. -/
theorem sendingStepWritesTheFrame : Obligations.SendingStepWritesTheFrame := by
  intro s a rest k hinv hs ha
  obtain ⟨hfilled, hlen⟩ := hinv.tx
  refine ⟨_, Memory.holds_of_filled hfilled, by rw [List.length_map, hlen], ha.answer, ?_⟩
  have hstep := (sessionStep_sending hinv.op hs).trans (stepSending_eq hinv.memRead_txbuf ha)
  constructor
  · rintro rfl
    exact hstep.trans ((if_pos rfl).trans (congrArg _ (raise_busy _ hs rfl)))
  · rintro rfl
    exact hstep.trans (if_neg (by decide))

/-- Settles O31: the read, the ready branch by state and operation, then the timeout test. -/
theorem pollStepFollowsItsRule : Obligations.PollStepFollowsItsRule := by
  intro s a rest k hs hf ha t
  have hbusy : t.st.quiescent = false := by rcases hs with hs | hs <;> exact congrArg St.quiescent hs
  obtain ⟨herr, hready, hnot⟩ := stepPoll_eq ha
  rw [← sessionStep_poll hf hs] at herr hready hnot
  refine ⟨?_, fun h => ?_, fun h hs => ?_, fun h hs ho => ?_, fun h hs ho => ?_, fun b h hb hT => ?_,
    fun b h hb hT => ?_⟩
  · rcases ha.answer with h | ⟨R, rfl, hR⟩
    · exact .inl h
    · obtain ⟨b, rfl⟩ := List.length_eq_one_iff.1 hR
      exact .inr ⟨b, rfl⟩
  · exact (herr h).trans (congrArg _ (raise_busy _ rfl hbusy))
  · exact (hready h).trans (pollReady_forAck hs)
  · exact (hready h).trans (pollReady_waitReady hs ho)
  · exact (hready h).trans (pollReady_forResponse hs hf ho)
  · refine ((hnot b h hb).1 hT).trans (congrArg _ ((raise_busy _ rfl hbusy).trans ?_))
    rw [pollTimeoutReason_code]; rfl
  · refine ((hnot b h hb).2 hT).trans (congrArg _ ?_)
    simp [State.sleepOnce, State.log, State.afterEvent, t]

/-- Settles O32: the read, the comparison with the ack constant, then the operation. -/
theorem ackStepFollowsItsRule : Obligations.AckStepFollowsItsRule := by
  intro s a rest k hs hf ha t
  obtain ⟨herr, hread⟩ := stepAck_eq ha
  rw [← sessionStep_ack hf hs] at herr hread
  refine ⟨fun h => ?_, fun h => ha.answer.resolve_left h, fun R h => ⟨_, rxStored_setAll s R, fun hbad => ?_,
    fun hgood => ⟨fun ho => ?_, fun h1 h2 => ?_⟩⟩⟩
  · exact (herr h).trans (congrArg _ (raise_busy _ hs rfl))
  · exact (hread R h).2.trans ((if_neg hbad).trans (congrArg _ (raise_busy _ hs rfl)))
  · exact (hread R h).2.trans ((if_pos hgood).trans (ackGood_finish ho))
  · exact (hread R h).2.trans ((if_pos hgood).trans (ackGood_poll hs hf h1 h2))

/-- Settles O50: acceptance and the two moves that enter a poll loop zero `elapsed`, and no move touches the budget. -/
theorem pollLoopEntryZeroesElapsed : Obligations.PollLoopEntryZeroesElapsed := by
  constructor
  · intro i s t hq h _
    obtain ⟨u, hu, hacc⟩ := exec_accepted i hq
    obtain rfl := Host.Outcome.next.inj (hu.symm.trans h)
    exact hacc.elapsed_eq
  · intro s t h
    cases hb : s.st.quiescent with
    | true =>
      obtain rfl := Host.Outcome.next.inj ((sessionStep_quiescent hb).symm.trans h)
      exact ⟨rfl, fun hne => absurd rfl hne⟩
    | false =>
      obtain ⟨o, -, -, hmove⟩ := sessionStep_move hb h
      obtain ⟨-, -, htimeout, -⟩ := hmove.kept
      exact ⟨htimeout, hmove.elapsed_of_entry⟩

end Sys2Proof.Machine
end

section
/-! SUPPORT. The poll loop (spec/41_session_fsm.md R145 to R147): its polls that end in a sleep taken together, the poll
that ends it, and the statement about its bound. -/

namespace Sys2Proof.Machine

/-! ### The bound `ceil(T / P) + 1` -/

/-- The reads of a loop stay within `n + 1` exactly when `n` sleeps spend the budget. -/
theorem pollReads_le_iff {T P n : Nat} (hP : 1 ≤ P) : pollReads T P ≤ n + 1 ↔ T ≤ n * P := by
  rw [pollReads, Nat.add_le_add_iff_right, Nat.div_le_iff_le_mul_add_pred hP, Nat.mul_comm]
  omega

/-- The sleeps of a loop that times out overshoot the budget by less than one interval. -/
theorem mul_pollInterval_lt {T P n : Nat} (hP : 1 ≤ P) (hn : n < pollReads T P) : n * P < T + P := by
  cases n with
  | zero => omega
  | succ n =>
    have hlt : ¬ T ≤ n * P := fun hle => Nat.not_lt.2 ((pollReads_le_iff hP).2 hle) hn
    rw [Nat.succ_mul]
    omega

/-! ### The events of a loop -/

/-- The events of the polls that read `bs`, each of them followed by its sleep (R145). -/
def notReadyEvents (peer P : Nat) (bs : List Byte) : List Event :=
  bs.flatMap fun b => [.read peer 1 (.readOk [b]), .sleep P]

/-- A loop's events are those of its polls that slept, and its last read. -/
theorem pollEvents_append_singleton (peer P : Nat) (bs : List Byte) (b : Byte) :
    pollEvents peer P (bs ++ [b]) = notReadyEvents peer P bs ++ [.read peer 1 (.readOk [b])] := by
  induction bs with
  | nil => rfl
  | cons c bs ih =>
    have hcons : pollEvents peer P (c :: (bs ++ [b])) =
        .read peer 1 (.readOk [c]) :: .sleep P :: pollEvents peer P (bs ++ [b]) := by
      cases bs <;> rfl
    rw [List.cons_append, hcons, ih]
    rfl

/-! ### Polling -/

/-- A run and one step more. -/
theorem runs_snoc {s t u : State} {k : Nat} (h : runs k s = .next t) (hu : step t = .next u) :
    runs (k + 1) s = .next u := (runs_add k 1 h).trans (runs_succ 0 hu)

/-- A session in a poll loop that the caller leaves alone. -/
structure State.Polling (s : State) : Prop where
  params : s.cfg.Legal
  regs : s.regsLegal = true
  fits : s.opFits = true
  poll : s.st = .awaitReadyAck ∨ s.st = .awaitReadyRsp
  alone : s.caller = []

/-- The loop after the polls that read `bs` and slept. -/
def State.afterPolls (s : State) (bs : List Byte) (rest : List PortAnswer) : State :=
  { s with
    elapsed := s.elapsed + bs.length * s.cfg.pollInterval
    history := s.history ++ notReadyEvents s.cfg.peerAddr s.cfg.pollInterval bs
    transport := rest }

theorem State.afterPolls_nil (s : State) : s.afterPolls [] s.transport = s := by
  simp [State.afterPolls, notReadyEvents]

theorem State.afterPolls_elapsed {s : State} {rest : List PortAnswer} (bs : List Byte) (h0 : s.elapsed = 0) :
    (s.afterPolls bs rest).elapsed = bs.length * s.cfg.pollInterval := by
  simp [State.afterPolls, h0]

theorem State.afterPolls_cons (s : State) (b : Byte) (bs : List Byte) (r rest : List PortAnswer) :
    (s.afterPolls [b] r).afterPolls bs rest = s.afterPolls (b :: bs) rest := by
  simp [State.afterPolls, notReadyEvents, Nat.succ_mul, Nat.add_assoc, Nat.add_comm s.cfg.pollInterval]

section
variable {s : State} (h : s.Polling)
include h

theorem State.Polling.afterPolls (bs : List Byte) (rest : List PortAnswer) : (s.afterPolls bs rest).Polling :=
  ⟨h.params, h.regs, h.fits, h.poll, h.alone⟩

theorem State.Polling.step_eq : step s = stepPoll s :=
  (step_session h.params h.regs h.alone).trans (sessionStep_poll h.fits h.poll)

variable {rest : List PortAnswer}

/-- A poll that is not ready within the budget sleeps. -/
theorem State.Polling.step_notReady {b : Byte} (ht : s.transport = .readOk [b] :: rest) (hb : b ≠ readyByte)
    (hT : s.elapsed < s.timeout.toNat) : step s = .next (s.afterPolls [b] rest) := by
  obtain ⟨-, -, hnot⟩ := stepPoll_eq (readAnswered_script ht rfl)
  rw [h.step_eq, (hnot b rfl hb).2 hT]
  simp [State.afterPolls, notReadyEvents, State.sleepOnce, State.log, State.afterEvent]

/-- Polls that are not ready, the last of them still within the budget. -/
theorem State.Polling.runs_notReady {bs : List Byte} (ht : s.transport = bs.map (fun b => .readOk [b]) ++ rest)
    (hb : ∀ b ∈ bs, b ≠ readyByte)
    (hT : s.elapsed + bs.length * s.cfg.pollInterval < s.timeout.toNat + s.cfg.pollInterval) :
    runs bs.length s = .next (s.afterPolls bs rest) := by
  induction bs generalizing s with
  | nil =>
    obtain rfl : s.transport = rest := ht
    rw [State.afterPolls_nil]; rfl
  | cons b bs ih =>
    obtain ⟨hb, hbs⟩ := List.forall_mem_cons.1 hb
    rw [List.length_cons, Nat.succ_mul] at hT
    have hstep := h.step_notReady ht hb (by omega)
    have hT' : s.elapsed + 1 * s.cfg.pollInterval + bs.length * s.cfg.pollInterval <
        s.timeout.toNat + s.cfg.pollInterval := by omega
    rw [List.length_cons, runs_succ _ hstep, ← State.afterPolls_cons s b bs _ rest]
    exact ih (h.afterPolls [b] _) rfl hbs hT'

/-- A loop within its bound is at its next poll after the polls that read `bs`. -/
theorem State.Polling.runs_of_lt_pollReads {bs : List Byte}
    (ht : s.transport = bs.map (fun b => .readOk [b]) ++ rest) (hb : ∀ b ∈ bs, b ≠ readyByte) (h0 : s.elapsed = 0)
    (hlen : bs.length < pollReads s.timeout.toNat s.cfg.pollInterval) :
    runs bs.length s = .next (s.afterPolls bs rest) := by
  refine h.runs_notReady ht hb ?_
  rw [h0, Nat.zero_add]
  exact mul_pollInterval_lt h.params.2.2 hlen

/-- A poll that is not ready and finds the budget spent ends the loop. -/
theorem State.Polling.step_timedOut {b : Byte} (ht : s.transport = .readOk [b] :: rest) (hb : b ≠ readyByte)
    (hT : s.timeout.toNat ≤ s.elapsed) :
    ∃ u, step s = .next u ∧ u.Reports .timedOut 0x03 (if s.st = .awaitReadyAck then 0x01 else 0x02) s.st ∧
      u.elapsed = s.elapsed ∧ u.transport = rest ∧
      u.history = s.history ++ [.read s.cfg.peerAddr 1 (.readOk [b])] := by
  obtain ⟨-, -, hnot⟩ := stepPoll_eq (readAnswered_script ht rfl)
  have hbusy : s.st.quiescent = false := by rcases h.poll with hs | hs <;> rw [hs] <;> rfl
  rw [h.step_eq, (hnot b rfl hb).1 hT]
  exact ⟨_, rfl, ⟨rfl, rfl, pollTimeoutReason_code s.st, if_neg (Bool.eq_false_iff.1 hbusy)⟩, rfl, rfl, rfl⟩

/-- A ready poll ends the loop, whatever the budget, and the exchange goes on. -/
theorem State.Polling.step_ready (ht : s.transport = .readOk [readyByte] :: rest) :
    ∃ u, step s = .next u ∧
      u.st = (if s.st = .awaitReadyAck then .awaitAck else if s.op = 0x10 then .done else .awaitRsp) ∧
      u.elapsed = s.elapsed ∧ u.transport = rest ∧
      u.history = s.history ++ [.read s.cfg.peerAddr 1 (.readOk [readyByte])] := by
  obtain ⟨-, hready, -⟩ := stepPoll_eq (readAnswered_script ht rfl)
  rw [h.step_eq, hready rfl]
  rcases h.poll with hs | hs
  · exact ⟨_, pollReady_forAck hs, by simp [hs], rfl, rfl, rfl⟩
  · by_cases ho : s.op = 0x10
    · exact ⟨_, pollReady_waitReady hs ho, by simp [hs, ho], rfl, rfl, rfl⟩
    · exact ⟨_, pollReady_forResponse hs h.fits ho, by rw [hs, if_neg (by decide), if_neg ho], rfl, rfl, rfl⟩

end

/-- Settles O42: the polls before the last one sleep, which spends the budget exactly at the bound; then the last one
times out, or before that a ready one goes on. -/
theorem pollLoopEndsWithinItsBound : Obligations.PollLoopEndsWithinItsBound := by
  intro s bs rest hp hr hf hs hc h0 hb ht T P
  have hpoll : s.Polling := ⟨hp, hr, hf, hs, hc⟩
  have hP : 1 ≤ P := hp.2.2
  refine ⟨fun hlen => ?_, fun rest' hlen hrest => ?_⟩
  · rcases List.eq_nil_or_concat' bs with rfl | ⟨cs, b, rfl⟩
    · exact absurd hlen.symm (Nat.succ_ne_zero _)
    · rw [List.length_append, List.length_singleton] at hlen ⊢
      rw [List.forall_mem_append, List.forall_mem_singleton] at hb
      have hlt : cs.length < pollReads T P := by omega
      have hspent : T ≤ cs.length * P := (pollReads_le_iff hP).1 hlen.ge
      have hruns := hpoll.runs_of_lt_pollReads (rest := .readOk [b] :: rest) (by simpa using ht) hb.1 h0 hlt
      have hel := State.afterPolls_elapsed (rest := .readOk [b] :: rest) cs h0
      obtain ⟨u, hstep, hrep, hu, htr, hhist⟩ :=
        (hpoll.afterPolls cs _).step_timedOut rfl hb.2 (hspent.trans_eq hel.symm)
      rw [hel] at hu
      refine ⟨u, runs_snoc hruns hstep, hrep, by rwa [Nat.add_sub_cancel], hu ▸ hspent,
        hu ▸ mul_pollInterval_lt hP hlt, htr, ?_⟩
      rw [hhist, pollEvents_append_singleton, ← List.append_assoc]; rfl
  · subst hrest
    have hruns := hpoll.runs_of_lt_pollReads ht hb h0 hlen
    obtain ⟨u, hstep, hst, hu, htr, hhist⟩ := (hpoll.afterPolls bs _).step_ready rfl
    refine ⟨u, runs_snoc hruns hstep, hst, hu.trans (State.afterPolls_elapsed bs h0), htr, ?_⟩
    rw [hhist, pollEvents_append_singleton, ← List.append_assoc]; rfl

end Sys2Proof.Machine
end

section
/-! SUPPORT. The invariant along an exchange: every update of the state that acceptance and the session steps are made
of keeps it, so acceptance establishes it and every move keeps it; and in its states the session always has a next state
(spec/41_session_fsm.md R154, spec/70_reset_and_hazards.md R269, spec/10_state.md R28). -/

namespace Sys2Proof.Machine

open Config (Params)

/-! ### Codes in range -/

theorem Err.codes_legal (e : Err) : statusLegal e.status = true ∧ reasonLegal e.reason = true := by
  cases e with
  | ackMismatch => decide
  | invalidArgument r | ioError r | timedOut r | protocolError r | decodeError r => cases r <;> decide

theorem Success.status_legal (c : Success) : statusLegal c.status = true := by cases c <;> rfl

/-! ### A session with no outcome yet -/

/-- What the operation `o` in progress finds in the registers until its exchange ends: the length its plan fixes, and
the result and the outcome at their acceptance values. -/
structure State.Unfinished (s : State) (o : Op) : Prop where
  op : Op.ofCode s.op = some o
  len : ∀ n, o.fixedExpLen = some n → s.expLen = n
  result : s.resFlag = false ∧ s.resWord = 0 ∧ s.resLen = 0
  outcome : s.status = statusNone ∧ s.reason = 0x00 ∧ s.failState = .idle

theorem outcomeFits_busy {s : State} (hb : s.st.quiescent = false) :
    s.OutcomeFits ↔ s.status = statusNone ∧ s.reason = 0x00 ∧ s.failState = .idle := by
  unfold State.OutcomeFits
  cases hs : s.st with
  | sending | awaitReadyAck | awaitAck | awaitReadyRsp | awaitRsp => exact Iff.rfl
  | idle | done | timedOut | failed => simp [hs, St.quiescent] at hb

theorem State.Inv.unfinished {s : State} {o : Op} (h : s.Inv) (hb : s.st.quiescent = false)
    (ho : Op.ofCode s.op = some o) : s.Unfinished o :=
  ⟨ho, fun n => h.len hb o n ho, h.noResult hb, (outcomeFits_busy hb).1 h.outcome⟩

theorem State.Unfinished.afterEvent {s : State} {o : Op} (h : s.Unfinished o) (ev : Event) (rest : List PortAnswer)
    (k : Nat) : (s.afterEvent ev rest k).Unfinished o := ⟨h.op, h.len, h.result, h.outcome⟩

theorem State.Unfinished.storeRead {s : State} {o : Op} (h : s.Unfinished o) (m : Memory) (n : Nat) :
    (s.storeRead m n).Unfinished o := ⟨h.op, h.len, h.result, h.outcome⟩

/-! ### One lemma per update -/

/-- The invariant does not speak of the history and the transport. -/
theorem State.Inv.afterEvent {s : State} (h : s.Inv) (ev : Event) (rest : List PortAnswer) (k : Nat) :
    (s.afterEvent ev rest k).Inv :=
  ⟨h.params, h.regs, h.tx, h.rx, h.res, h.op, h.len, h.frame, h.noResult, h.outcome⟩

/-- Nor of the time spent. -/
theorem State.Inv.sleepOnce {s : State} (h : s.Inv) : s.sleepOnce.Inv :=
  ⟨h.params, h.regs, h.tx, h.rx, h.res, h.op, h.len, h.frame, h.noResult, h.outcome⟩

/-- A read stored from index 0 on keeps `rxbuf` filled. -/
theorem State.Inv.storeRead {s : State} (h : s.Inv) {R : List Byte} (hR : R.length ≤ s.cfg.rxCap) :
    (s.storeRead (Memory.setAll s.rxbuf 0 R) R.length).Inv := by
  obtain ⟨hexp, htx, -, hres, hst, hrs⟩ := (regsLegal_iff s).1 h.regs
  obtain ⟨hfilled, -, hcap⟩ := h.rx
  obtain ⟨hfilled', hlen⟩ := Memory.setAll_filled hfilled R (Nat.zero_le _)
  exact
    { params := h.params
      regs := (regsLegal_iff _).2 ⟨hexp, htx, hR, hres, hst, hrs⟩
      tx := h.tx
      rx := ⟨hfilled', show R.length ≤ (Memory.setAll s.rxbuf 0 R).length by omega,
        show (Memory.setAll s.rxbuf 0 R).length ≤ s.cfg.rxCap by omega⟩
      res := h.res
      op := h.op
      len := h.len
      frame := h.frame
      noResult := h.noResult
      outcome := h.outcome }

/-- An error ends the exchange. -/
theorem raise_st_quiescent (e : Err) (s : State) : (s.raise e).st.quiescent = true := by
  rcases e.terminalState_cases with h | h <;> rw [State.raise_st, h] <;> rfl

/-- An error that is a row of the table of errors may end the exchange (spec/60_exceptions.md R236). -/
theorem State.Inv.raise {s : State} {e : Err} (h : s.Inv)
    (he : e.inTable s.cfg s.op (if s.st.quiescent then .idle else s.st)) : (s.raise e).Inv := by
  obtain ⟨hexp, htx, hrx, hres, -, -⟩ := (regsLegal_iff s).1 h.regs
  have hq := raise_st_quiescent e s
  exact
    { params := h.params
      regs := (regsLegal_iff _).2 ⟨hexp, htx, hrx, hres, e.codes_legal⟩
      tx := h.tx
      rx := h.rx
      res := h.res
      op := by rw [State.opFits, hq, Bool.true_or]
      len := fun hb => absurd (hq.symm.trans hb) (by decide)
      frame := fun hs => by rw [hs] at hq; exact absurd hq (by decide)
      noResult := fun hb => absurd (hq.symm.trans hb) (by decide)
      outcome := by
        cases e with
        | timedOut r => exact ⟨r, rfl, rfl, he⟩
        | invalidArgument | ioError | ackMismatch | protocolError | decodeError => exact ⟨_, rfl, rfl, rfl, he⟩ }

/-- A success may end the exchange (spec/60_exceptions.md R237). -/
theorem State.Inv.finishWord {s : State} (h : s.Inv) (c : Success) (r : Results) : (s.finishWord c r).Inv := by
  obtain ⟨hexp, htx, hrx, hres, -, -⟩ := (regsLegal_iff s).1 h.regs
  exact
    { params := h.params
      regs := (regsLegal_iff _).2 ⟨hexp, htx, hrx, hres, c.status_legal, rfl⟩
      tx := h.tx
      rx := h.rx
      res := h.res
      op := rfl
      len := nofun
      frame := nofun
      noResult := nofun
      outcome := ⟨⟨c, rfl⟩, rfl, rfl⟩ }

/-- The byte-sequence result of an exchange that ended, written to a buffer that held none. -/
theorem State.Inv.withResultBytes {s : State} (h : s.Inv) (hq : s.st.quiescent = true) (h0 : s.resBytes = [])
    {bs : List Byte} (hl : bs.length ≤ s.cfg.rxMaxFrame) :
    (s.withResultBytes (Memory.setAll s.resBytes 0 bs) bs.length).Inv := by
  obtain ⟨hexp, htx, hrx, -, hst, hrs⟩ := (regsLegal_iff s).1 h.regs
  obtain ⟨hfilled, hlen⟩ := Memory.setAll_filled h.res.1 bs (Nat.zero_le _)
  rw [h0, List.length_nil, Nat.zero_add, Nat.zero_max] at hlen
  exact
    { params := h.params
      regs := (regsLegal_iff _).2 ⟨hexp, htx, hrx, hl, hst, hrs⟩
      tx := h.tx
      rx := h.rx
      res := ⟨hfilled, by rw [State.withResultBytes_resBytes, h0, hlen]; rfl⟩
      op := h.op
      len := fun hb => absurd (hq.symm.trans hb) (by decide)
      frame := h.frame
      noResult := fun hb => absurd (hq.symm.trans hb) (by decide)
      outcome := h.outcome }

/-- An exchange may go on in any state past `Sending` that its operation fits. -/
theorem State.Inv.goOn {s : State} {o : Op} (h : s.Inv) (hu : s.Unfinished o) {t : St} (hb : t.quiescent = false)
    (hs : t ≠ .sending) (hf : o.fitsState t = true) (n : Nat) : { s with st := t, elapsed := n }.Inv where
  params := h.params
  regs := h.regs
  tx := h.tx
  rx := h.rx
  res := h.res
  op := by simp [State.opFits, hu.op, hf]
  len := fun _ o' m ho' => by
    obtain rfl := Option.some.inj (hu.op.symm.trans ho')
    exact hu.len m
  frame := fun ht => absurd ht hs
  noResult := fun _ => hu.result
  outcome := (outcomeFits_busy hb).2 hu.outcome

/-- An exchange may begin in `Sending`, with a command frame in a `txbuf` that was empty. -/
theorem State.Inv.loadFrame {s : State} {o : Op} {P : List Byte} (h : s.Inv) (hu : s.Unfinished o)
    (hsend : o.sends = true) (h0 : 1 ≤ P.length) (h1 : P.length ≤ s.cfg.maxPayload) :
    (s.loadFrame (Memory.setAll [] 0 (frameOf tfiCommand P)) (P.length + 8)).Inv := by
  obtain ⟨hexp, -, hrx, hres, hst, hrs⟩ := (regsLegal_iff s).1 h.regs
  have hcap : P.length + 8 ≤ s.cfg.maxCmdFrame := Nat.add_le_add_right h1 8
  obtain ⟨hfilled, hlen⟩ := Memory.setAll_filled (m := []) rfl (frameOf tfiCommand P) (Nat.zero_le _)
  rw [List.length_nil, Nat.zero_add, Nat.zero_max, frameOf_length] at hlen
  exact
    { params := h.params
      regs := (regsLegal_iff _).2 ⟨hexp, hcap, hrx, hres, hst, hrs⟩
      tx := ⟨hfilled, hlen⟩
      rx := h.rx
      res := h.res
      op := by simp [State.opFits, hu.op, hsend, Op.fitsState]
      len := fun _ o' m ho' => by
        obtain rfl := Option.some.inj (hu.op.symm.trans ho')
        exact hu.len m
      frame := fun _ => ⟨P, h0, h1, Memory.map_snd_of_holds hfilled (Memory.holds_setAll_nil _)⟩
      noResult := fun _ => hu.result
      outcome := hu.outcome }

/-! ### Acceptance establishes the invariant -/

/-- Acceptance clears the session to a state of the invariant, but for `st`, which it has yet to write. -/
theorem clearForAccept_idle_inv {s : State} (h : s.cfg.Legal) (op : Byte) :
    { s.clearForAccept op with st := .idle }.Inv where
  params := h
  regs := (regsLegal_iff _).2 ⟨Nat.zero_le _, Nat.zero_le _, Nat.zero_le _, Nat.zero_le _, rfl, rfl⟩
  tx := ⟨rfl, rfl⟩
  rx := ⟨rfl, Nat.zero_le _, Nat.zero_le _⟩
  res := ⟨rfl, rfl⟩
  op := rfl
  len := nofun
  frame := nofun
  noResult := nofun
  outcome := ⟨rfl, rfl, rfl⟩

/-- The plan's registers may take any length that fits while no exchange is in progress. -/
theorem State.Inv.latchBudget {s : State} {p : Plan} (h : s.Inv) (hs : s.st = .idle)
    (hn : p.expLen ≤ s.cfg.rxMaxFrame) : (s.latchBudget p).Inv := by
  obtain ⟨-, htx, hrx, hres, hst, hrs⟩ := (regsLegal_iff s).1 h.regs
  have hq : s.st.quiescent = true := by rw [hs]; rfl
  exact
    { params := h.params
      regs := (regsLegal_iff _).2 ⟨hn, htx, hrx, hres, hst, hrs⟩
      tx := h.tx
      rx := h.rx
      res := h.res
      op := h.op
      len := fun hb => absurd (hq.symm.trans hb) (by decide)
      frame := h.frame
      noResult := h.noResult
      outcome := h.outcome }

/-- A quiescent session raises its errors as an idle one does. -/
theorem raise_quiescent {s : State} (e : Err) (h : s.st.quiescent = true) :
    s.raise e = { s with st := .idle }.raise e := by
  rw [State.raise, h, if_pos rfl]; rfl

/-- Whatever a quiescent session held before, an operation presented to it leaves it in a state of the invariant. -/
theorem Accepted.inv {i : Instr} {s t : State} (h : Accepted i s t) (hq : s.st.quiescent = true) (hl : s.cfg.Legal) :
    t.Inv := by
  have hidle := clearForAccept_idle_inv hl i.op.code
  have hop := Op.ofCode_code i.op
  have htable : ∀ e : Err, e.raisedIn .idle = true → e.raisedBy s.cfg i.op = true →
      e.inTable s.cfg i.op.code .idle := fun e hi hb => ⟨hi, by rw [hop]; exact hb⟩
  cases h with
  | rejected e hb hi => rw [raise_quiescent (s := s.clearForAccept _) e hq]; exact hidle.raise (htable e hi hb)
  | unsendable p x hn _ hb =>
    rw [raise_quiescent (s := (s.clearForAccept _).latchBudget p) _ hq]
    exact (hidle.latchBudget (p := p) rfl hn).raise (htable _ rfl (hb hl))
  | finished r => exact hidle.finishWord .ok r
  | finishedBytes r bs hbs => exact (hidle.finishWord .ok r).withResultBytes rfl rfl hbs
  | polls p hready hn hfix =>
    exact (hidle.latchBudget (p := p) rfl hn).goOn (t := .awaitReadyRsp)
      ⟨hop, hfix, ⟨rfl, rfl, rfl⟩, rfl, rfl, rfl⟩ rfl (by decide) hready 0
  | sends p P hsend hn hfix h0 h1 =>
    exact (hidle.latchBudget (p := p) rfl hn).loadFrame ⟨hop, hfix, ⟨rfl, rfl, rfl⟩, rfl, rfl, rfl⟩ hsend h0 h1

/-! ### Every move keeps it -/

/-- An operation that goes on to poll after its ack is one that polls. -/
theorem Op.afterReady_of_afterAck {o : Op} (h : o.afterAck = some .pollResponse) : o.afterReady.isSome = true := by
  cases o with
  | transceive | getFirmwareVersion | configureSam => rfl
  | encodeCommand | genChecksum | verifyAck | decodeResponse | checkFrame | waitReady | sendCommand | readResponse
  | startPassiveDetection | readDetectedTarget => exact absurd h (by decide)

/-- Every move of a busy session keeps the invariant. -/
theorem SessionMove.inv {s t : State} {o : Op} (h : SessionMove s o t) (hinv : s.Inv) (hb : s.st.quiescent = false)
    (ho : Op.ofCode s.op = some o) (hf : o.fitsState s.st = true) : t.Inv := by
  have hu : s.Unfinished o := hinv.unfinished hb ho
  have hstore : ∀ {ev rest k R}, R.length ≤ s.cfg.rxCap → (s.afterStore ev rest k R).Inv := fun hR =>
    (hinv.afterEvent _ _ _).storeRead hR
  have hres : s.resBytes = [] := List.eq_nil_of_length_eq_zero (hinv.res.2.trans hu.result.2.2)
  have htable : ∀ e : Err, e.raisedIn s.st = true → e.raisedBy s.cfg o = true →
      e.inTable s.cfg s.op (if s.st.quiescent then .idle else s.st) := fun e hi hr => by
    rw [hb, if_neg Bool.false_ne_true]
    exact ⟨hi, by rw [ho]; exact hr⟩
  cases h with
  | failed ev rest k e _ _ _ hi hr => exact (hinv.afterEvent ev rest k).raise (htable e hi hr)
  | failedStored n rest k R e _ _ hR _ hi hr => exact (hstore hR).raise (htable e hi hr)
  | written ev rest k _ _ hs =>
    rw [hs] at hf
    exact (hinv.afterEvent ev rest k).goOn (t := .awaitReadyAck) (hu.afterEvent ev rest k) rfl (by decide) hf 0
  | readyForAck ev rest k _ _ hs =>
    rw [hs] at hf
    exact (hinv.afterEvent ev rest k).goOn (t := .awaitAck) (hu.afterEvent ev rest k) rfl (by decide) hf s.elapsed
  | readyForResponse ev rest k _ _ _ hr =>
    exact (hinv.afterEvent ev rest k).goOn (t := .awaitRsp) (hu.afterEvent ev rest k) rfl (by decide) hr s.elapsed
  | waited ev rest k => exact (hinv.afterEvent ev rest k).finishWord .ok {}
  | slept ev rest k => exact (hinv.afterEvent ev rest k).sleepOnce
  | acked ev rest k R _ _ _ hR => exact (hstore hR).finishWord .ok {}
  | ackedToPoll ev rest k R _ _ _ hR hr =>
    exact (hstore hR).goOn (t := .awaitReadyRsp) ((hu.afterEvent ev rest k).storeRead _ _) rfl (by decide)
      (Op.afterReady_of_afterAck hr) 0
  | gave ev rest k R c r _ _ _ hR => exact (hstore hR).finishWord c r
  | gaveBytes ev rest k R c r bs _ _ _ hR hl => exact ((hstore hR).finishWord c r).withResultBytes rfl hres hl

/-! ### A busy session always has a next state -/

theorem finish_total {c : Success} {r : Results} (s : State) (h : (r.bytes.getD []).length ≤ s.cfg.rxMaxFrame) :
    ∃ t, s.finish c r = .next t := by
  cases hb : r.bytes with
  | none => exact ⟨_, finish_none s hb⟩
  | some bs => rw [hb] at h; exact ⟨_, finish_bytes s hb h⟩

/-- The branch after a ready byte, for any operation that goes with the loop. -/
theorem pollReady_total {s : State} (hs : s.st = .awaitReadyAck ∨ s.st = .awaitReadyRsp) (hf : s.opFits = true) :
    ∃ t, pollReady s = .next t := by
  rcases hs with hs | hs
  · exact ⟨_, pollReady_forAck hs⟩
  · by_cases ho : s.op = 0x10
    · exact ⟨_, pollReady_waitReady hs ho⟩
    · exact ⟨_, pollReady_forResponse hs hf ho⟩

/-- The branch after a good ack, for any operation that sends. -/
theorem ackGood_total {s : State} (hs : s.st = .awaitAck) (hf : s.opFits = true) : ∃ t, ackGood s = .next t := by
  by_cases ho : s.op = 0x11 ∨ s.op = 0x22
  · exact ⟨_, ackGood_finish ho⟩
  · obtain ⟨h1, h2⟩ := not_or.1 ho
    exact ⟨_, ackGood_poll hs hf h1 h2⟩

theorem interpretFirmware_total {d : List Byte} {s : State} (h : d.length = 13) :
    ∃ t, interpretFirmware d s = .next t := by
  have hroom := Params.room s.cfg
  by_cases hh : d.take 6 = firmwareHeader
  · have hl : ((d.drop 7).take 4).length = 4 := by rw [List.length_take, List.length_drop, h]; rfl
    obtain ⟨chip, major, minor, build, hv⟩ := List.length_eq_four.1 hl
    rw [interpretFirmware_accepted h hh hv]
    exact finish_total s (show 4 ≤ s.cfg.rxMaxFrame by omega)
  · exact ⟨_, interpretFirmware_rejected h hh⟩

theorem interpretSam_total {d : List Byte} {s : State} (h : d.length = 9) : ∃ t, interpretSam d s = .next t := by
  by_cases hm : d[s.cfg.samOkOffset.val]? = some s.cfg.samOkMarker
  · rw [interpretSam_accepted h hm]
    exact finish_total s (Nat.zero_le _)
  · exact ⟨_, interpretSam_rejected h hm⟩

theorem interpretTarget_total {d : List Byte} {s : State} (h : d.length = 20) :
    ∃ t, interpretTarget d s = .next t := by
  have hroom := Params.room s.cfg
  have hn := List.getElem?_eq_getElem (l := d) (i := s.cfg.uidLenOffset.val) (by rw [h]; exact s.cfg.uidLenOffset.isLt)
  by_cases hc : d[s.cfg.nbtgOffset.val]? = some 0x01
  · rcases Nat.lt_or_ge 20 (s.cfg.uidOffset.val + d[s.cfg.uidLenOffset.val].toNat) with hov | hok
    · exact ⟨_, interpretTarget_overrun h hc hn hov⟩
    · rw [interpretTarget_accepted h hc hn hok]
      refine finish_total s ?_
      simp only [Option.getD_some, slice, List.length_take]
      omega
  · rw [interpretTarget_none h hc]
    exact finish_total s (Nat.zero_le _)

/-- The response of every operation that reads one is interpreted, if it has the length of the plan. -/
theorem interpret_total {d : List Byte} {s : State} {o : Op} (ho : Op.ofCode s.op = some o)
    (hr : o.readsResponse = true) (hlen : ∀ n, o.fixedExpLen = some n → d.length = n)
    (hd : d.length ≤ s.cfg.rxMaxFrame) : ∃ t, interpret d s = .next t := by
  have hcode := Op.ofCode_eq_some.1 ho
  cases o with
  | transceive => rw [interpret_raw (.inl hcode)]; exact finish_total s hd
  | readResponse => rw [interpret_raw (.inr hcode)]; exact finish_total s hd
  | getFirmwareVersion => rw [interpret_firmware hcode]; exact interpretFirmware_total (hlen 13 rfl)
  | configureSam => rw [interpret_sam hcode]; exact interpretSam_total (hlen 9 rfl)
  | readDetectedTarget => rw [interpret_target hcode]; exact interpretTarget_total (hlen 20 rfl)
  | encodeCommand | genChecksum | verifyAck | decodeResponse | checkFrame | waitReady | sendCommand
  | startPassiveDetection => exact absurd hr (by decide)

/-- A poll always has a next state. -/
theorem stepPoll_total {s : State} (hs : s.st = .awaitReadyAck ∨ s.st = .awaitReadyRsp) (hf : s.opFits = true) :
    ∃ t, stepPoll s = .next t := by
  obtain ⟨a, rest, k, ha, hans, -⟩ := portRead_cases 1 s
  obtain ⟨herr, hready, hnot⟩ := stepPoll_eq ha
  rcases hans with rfl | ⟨R, rfl, hR⟩
  · exact ⟨_, herr rfl⟩
  · obtain ⟨b, rfl⟩ := List.length_eq_one_iff.1 hR
    by_cases hb : b = readyByte
    · subst hb
      rw [hready rfl]
      exact pollReady_total hs hf
    · obtain ⟨hout, hsleep⟩ := hnot b rfl hb
      rcases Nat.lt_or_ge s.elapsed s.timeout.toNat with hT | hT
      · exact ⟨_, hsleep hT⟩
      · exact ⟨_, hout hT⟩

/-- The ack read always has a next state. -/
theorem stepAck_total {s : State} (hs : s.st = .awaitAck) (hf : s.opFits = true) : ∃ t, stepAck s = .next t := by
  obtain ⟨a, rest, k, ha, hans, -⟩ := portRead_cases 7 s
  obtain ⟨herr, hread⟩ := stepAck_eq ha
  rcases hans with rfl | ⟨R, rfl, -⟩
  · exact ⟨_, herr rfl⟩
  · rw [(hread R rfl).2]
    split
    · exact ackGood_total hs hf
    · exact ⟨_, rfl⟩

/-- The response read of an operation that reads one, with the length of its plan, always has a next state. -/
theorem stepResponse_total {s : State} {o : Op} (hn : s.expLen ≤ s.cfg.rxMaxFrame) (hu : s.Unfinished o)
    (hr : o.readsResponse = true) : ∃ t, stepResponse s = .next t := by
  obtain ⟨a, rest, k, ha, hans, -⟩ := portRead_cases (s.expLen + 1) s
  obtain ⟨herr, hread⟩ := stepResponse_eq hn ha
  rcases hans with rfl | ⟨R, rfl, hR⟩
  · exact ⟨_, herr rfl⟩
  · obtain ⟨-, hgood, hbad⟩ := hread R rfl
    have hd : (R.drop 1).length = s.expLen := by rw [List.length_drop, hR, Nat.add_sub_cancel]
    by_cases hacc : ResponseAccepted s.cfg (R.drop 1)
    · rw [hgood hacc]
      exact interpret_total hu.op hr (fun n hfix => hd.trans (hu.len n hfix)) (hd.trans_le hn)
    · obtain ⟨hv, hc⟩ := not_or.1 hacc
      cases hx : frameCheck (R.drop 1) tfiResponse with
      | ok => exact absurd hx hc
      | error x => exact ⟨_, hbad x (by simpa using hv) hx⟩

/-- In a state of the invariant the session always has a next state. -/
theorem State.Inv.sessionStep_total {s : State} (h : s.Inv) : ∃ t, sessionStep s = .next t := by
  cases hb : s.st.quiescent with
  | true => exact ⟨s, sessionStep_quiescent hb⟩
  | false =>
    obtain ⟨o, ho, -, hf⟩ := opFits_busy h.op hb
    cases hs : s.st with
    | idle | done | timedOut | failed => simp [hs, St.quiescent] at hb
    | sending =>
      obtain ⟨a, rest, k, ha, -, -⟩ := portWrite_cases (s.txbuf.map Prod.snd) s
      rw [sessionStep_sending h.op hs, stepSending_eq h.memRead_txbuf ha]
      split <;> exact ⟨_, rfl⟩
    | awaitReadyAck => rw [sessionStep_poll h.op (.inl hs)]; exact stepPoll_total (.inl hs) h.op
    | awaitReadyRsp => rw [sessionStep_poll h.op (.inr hs)]; exact stepPoll_total (.inr hs) h.op
    | awaitAck => rw [sessionStep_ack h.op hs]; exact stepAck_total hs h.op
    | awaitRsp =>
      rw [hs] at hf
      rw [sessionStep_response h.op hs]
      exact stepResponse_total ((regsLegal_iff s).1 h.regs).1 (h.unfinished hb ho) hf

end Sys2Proof.Machine
end

section
/-! SUPPORT. Every accepted exchange ends (spec/41_session_fsm.md R159): each step issues one transaction and uses up
either a stage of the exchange or one of the sleeps its poll loops have left, so the two together bound the transactions
still to come. -/

namespace Sys2Proof.Machine

/-! ### What an exchange has left -/

/-- The sleeps a poll loop has left with `e` of its budget `T` spent. -/
def loopSleepsLeft (T P e : Nat) : Nat := (T - e + P - 1) / P

/-- The sleeps an exchange has left: those of the loop it is in, and those of the loops to come. -/
def State.sleepsLeft (s : State) : Nat :=
  match s.st with
  | .sending => 2 * loopSleepsLeft s.timeout.toNat s.cfg.pollInterval 0
  | .awaitReadyAck =>
    loopSleepsLeft s.timeout.toNat s.cfg.pollInterval s.elapsed + loopSleepsLeft s.timeout.toNat s.cfg.pollInterval 0
  | .awaitAck => loopSleepsLeft s.timeout.toNat s.cfg.pollInterval 0
  | .awaitReadyRsp => loopSleepsLeft s.timeout.toNat s.cfg.pollInterval s.elapsed
  | .awaitRsp | .idle | .done | .timedOut | .failed => 0

/-- The busy states an exchange may still pass, the one it is in among them. -/
def St.stagesLeft : St → Nat
  | .sending => 5
  | .awaitReadyAck => 4
  | .awaitAck => 3
  | .awaitReadyRsp => 2
  | .awaitRsp => 1
  | .idle | .done | .timedOut | .failed => 0

theorem St.stagesLeft_quiescent {t : St} (h : t.quiescent = true) : t.stagesLeft = 0 := by
  revert h; cases t <;> decide

theorem St.stagesLeft_busy {t : St} (h : t.quiescent = false) : 1 ≤ t.stagesLeft := by
  revert h; cases t <;> decide

theorem State.sleepsLeft_quiescent {s : State} (h : s.st.quiescent = true) : s.sleepsLeft = 0 := by
  unfold State.sleepsLeft
  cases hs : s.st with
  | idle | done | timedOut | failed | awaitRsp => rfl
  | sending | awaitReadyAck | awaitAck | awaitReadyRsp => simp [hs, St.quiescent] at h

/-- `n` sleeps spend what is left of the budget exactly when the loop has no more than `n` left. -/
theorem loopSleepsLeft_le_iff {T P e n : Nat} (hP : 1 ≤ P) : loopSleepsLeft T P e ≤ n ↔ T - e ≤ n * P :=
  Nat.add_le_add_iff_right.symm.trans (pollReads_le_iff hP)

/-- A sleep within the budget is one of those the loop had left. -/
theorem loopSleepsLeft_slept {T P e : Nat} (hP : 1 ≤ P) (he : e < T) :
    loopSleepsLeft T P (e + P) < loopSleepsLeft T P e := by
  obtain ⟨n, hn⟩ : ∃ n, n = loopSleepsLeft T P e := ⟨_, rfl⟩
  have hspent : T - e ≤ n * P := (loopSleepsLeft_le_iff hP).1 hn.ge
  rw [← hn]
  cases n with
  | zero => omega
  | succ n =>
    rw [Nat.succ_mul] at hspent
    exact Nat.lt_succ_of_le ((loopSleepsLeft_le_iff hP).2 (by omega))

/-! ### Every step uses some of it up -/

@[simp] theorem Event.isTransaction_sleep (ms : Nat) : (Event.sleep ms).isTransaction = false := rfl
@[simp] theorem Event.isSleep_sleep (ms : Nat) : (Event.sleep ms).isSleep = true := rfl

/-- A transaction is no sleep. -/
theorem Event.isSleep_of_isTransaction {e : Event} (h : e.isTransaction = true) : e.isSleep = false := by
  cases e with
  | write | read => rfl
  | sleep => exact absurd h Bool.false_ne_true

/-- Every move issues one transaction, and it ends a stage or, with a sleep, uses up one of the sleeps left. -/
theorem SessionMove.progress {s t : State} {o : Op} (h : SessionMove s o t) (hP : 1 ≤ s.cfg.pollInterval)
    (hb : s.st.quiescent = false) :
    ∃ ev, ev.isTransaction = true ∧
      ((t.history = s.history ++ [ev] ∧ t.st.stagesLeft < s.st.stagesLeft ∧ t.sleepsLeft ≤ s.sleepsLeft) ∨
        (t.history = s.history ++ [ev, .sleep s.cfg.pollInterval] ∧ t.st = s.st ∧ t.sleepsLeft < s.sleepsLeft)) := by
  have hstage := St.stagesLeft_busy hb
  have hend : ∀ {u : State}, u.st.quiescent = true →
      u.st.stagesLeft < s.st.stagesLeft ∧ u.sleepsLeft ≤ s.sleepsLeft := fun hq => by
    rw [St.stagesLeft_quiescent hq, State.sleepsLeft_quiescent hq]
    exact ⟨hstage, Nat.zero_le _⟩
  cases h with
  | failed ev rest k e hw ht => exact ⟨ev, ht, .inl ⟨rfl, hend (raise_st_quiescent e _)⟩⟩
  | failedStored n rest k R e hw => exact ⟨_, rfl, .inl ⟨rfl, hend (raise_st_quiescent e _)⟩⟩
  | waited ev rest k hw ht
  | acked ev rest k R hw ht
  | gave ev rest k R c r hw ht
  | gaveBytes ev rest k R c r bs hw ht => exact ⟨ev, ht, .inl ⟨rfl, hend rfl⟩⟩
  | written ev rest k hw ht hs =>
    refine ⟨ev, ht, .inl ⟨rfl, by rw [hs]; exact Nat.lt_add_one _, ?_⟩⟩
    simp [State.sleepsLeft, hs, State.afterEvent, Nat.two_mul]
  | readyForAck ev rest k hw ht hs =>
    refine ⟨ev, ht, .inl ⟨rfl, by rw [hs]; exact Nat.lt_add_one _, ?_⟩⟩
    simp [State.sleepsLeft, hs, State.afterEvent]
  | readyForResponse ev rest k hw ht hs => exact ⟨ev, ht, .inl ⟨rfl, by rw [hs]; exact Nat.lt_add_one _, Nat.zero_le _⟩⟩
  | ackedToPoll ev rest k R hw ht hs =>
    refine ⟨ev, ht, .inl ⟨rfl, by rw [hs]; exact Nat.lt_add_one _, ?_⟩⟩
    simp [State.sleepsLeft, hs, State.afterEvent]
  | slept ev rest k hw ht hs he =>
    have hlt := loopSleepsLeft_slept hP he
    refine ⟨ev, ht, .inr ⟨by simp [State.afterEvent], rfl, ?_⟩⟩
    rcases hs with hs | hs <;> simpa [State.sleepsLeft, hs, State.afterEvent] using hlt

/-- The same, counted in the events recorded. -/
theorem SessionMove.uses {s t : State} {o : Op} (h : SessionMove s o t) (hP : 1 ≤ s.cfg.pollInterval)
    (hb : s.st.quiescent = false) :
    ∃ evs, t.history = s.history ++ evs ∧ (evs.filter Event.isTransaction).length = 1 ∧
      (evs.filter Event.isSleep).length + t.sleepsLeft ≤ s.sleepsLeft ∧
      t.st.stagesLeft + t.sleepsLeft < s.st.stagesLeft + s.sleepsLeft := by
  obtain ⟨ev, hev, ⟨hhist, hstage, hsleeps⟩ | ⟨hhist, hst, hsleeps⟩⟩ := h.progress hP hb
  · have hcount : ([ev].filter Event.isSleep).length = 0 := by simp [Event.isSleep_of_isTransaction hev]
    exact ⟨[ev], hhist, by simp [hev], by omega, by omega⟩
  · have hcount : ([ev, .sleep s.cfg.pollInterval].filter Event.isSleep).length = 1 := by
      simp [Event.isSleep_of_isTransaction hev, List.filter_cons]
    exact ⟨_, hhist, by simp [hev], by omega, by rw [hst]; omega⟩

/-- No move makes the session idle. -/
theorem SessionMove.st_ne_idle {s t : State} {o : Op} (h : SessionMove s o t) (hb : s.st.quiescent = false) :
    t.st ≠ .idle := by
  cases h with
  | failed _ _ _ e | failedStored _ _ _ _ e => rcases e.terminalState_cases with he | he <;> simp [he]
  | slept => exact fun hidle : s.st = .idle => by rw [hidle] at hb; exact absurd hb (by decide)
  | written | readyForAck | readyForResponse | waited | acked | ackedToPoll | gave | gaveBytes => nofun

/-! ### Every exchange ends -/

/-- A run that ends an exchange begun in `s`, within `m` transactions and `n` sleeps. -/
def State.EndsWithin (s : State) (m n : Nat) : Prop :=
  ∃ k u evs, runs k s = .next u ∧ u.st.terminal = true ∧ u.history = s.history ++ evs ∧
    (evs.filter Event.isTransaction).length ≤ m ∧ (evs.filter Event.isSleep).length ≤ n

theorem State.EndsWithin.mono {s : State} {m m' n n' : Nat} (h : s.EndsWithin m n) (hm : m ≤ m') (hn : n ≤ n') :
    s.EndsWithin m' n' := by
  obtain ⟨k, u, evs, hruns, hterm, hhist, htrans, hsleep⟩ := h
  exact ⟨k, u, evs, hruns, hterm, hhist, htrans.trans hm, hsleep.trans hn⟩

theorem State.endsWithin_of_terminal {s : State} (h : s.st.terminal = true) : s.EndsWithin 0 0 :=
  ⟨0, s, [], rfl, h, (List.append_nil _).symm, Nat.le_refl _, Nat.le_refl _⟩

/-- What one step records is added to what the rest of the exchange may. -/
theorem State.EndsWithin.of_step {s t : State} {m n : Nat} {evs : List Event} (h : t.EndsWithin m n)
    (hstep : step s = .next t) (hhist : t.history = s.history ++ evs) :
    s.EndsWithin ((evs.filter Event.isTransaction).length + m) ((evs.filter Event.isSleep).length + n) := by
  obtain ⟨k, u, evs', hruns, hterm, hu, htrans, hsleep⟩ := h
  refine ⟨k + 1, u, evs ++ evs', (runs_succ k hstep).trans hruns, hterm, ?_, ?_, ?_⟩
  · rw [hu, hhist, List.append_assoc]
  · rw [List.filter_append, List.length_append]; exact Nat.add_le_add_left htrans _
  · rw [List.filter_append, List.length_append]; exact Nat.add_le_add_left hsleep _

/-- From a state of the invariant an exchange the caller leaves alone ends within the stages and sleeps it has left. -/
theorem State.Inv.endsWithin {s : State} (h : s.Inv) (hc : s.caller = []) (hidle : s.st ≠ .idle) :
    s.EndsWithin (s.st.stagesLeft + s.sleepsLeft) s.sleepsLeft := by
  induction hn : s.st.stagesLeft + s.sleepsLeft using Nat.strong_induction_on generalizing s with
  | _ n ih =>
    cases hb : s.st.quiescent with
    | true =>
      have hterm : s.st.terminal = true := by
        revert hb hidle; cases s.st <;> decide
      exact (State.endsWithin_of_terminal hterm).mono (Nat.zero_le _) (Nat.zero_le _)
    | false =>
      obtain ⟨t, ht⟩ := h.sessionStep_total
      obtain ⟨o, ho, hf, hmove⟩ := sessionStep_move hb ht
      obtain ⟨-, -, -, hcaller⟩ := hmove.kept
      obtain ⟨evs, hhist, htrans, hsleep, hless⟩ := hmove.uses h.params.2.2 hb
      have hrest := ih _ (hn ▸ hless) (hmove.inv h hb ho hf) (hcaller.trans hc) (hmove.st_ne_idle hb) rfl
      have hstep : step s = .next t := (step_session h.params h.regs hc).trans ht
      exact (hrest.of_step hstep hhist).mono (by omega) hsleep

/-- Acceptance leaves no session idle. -/
theorem Accepted.st_ne_idle {i : Instr} {s t : State} (h : Accepted i s t) : t.st ≠ .idle := by
  cases h with
  | rejected e => rcases e.terminalState_cases with he | he <;> simp [he]
  | unsendable | finished | finishedBytes | polls | sends => nofun

/-- No exchange has more left than one that is about to send, with the budget unspent. -/
theorem State.left_le {s : State} (h0 : s.elapsed = 0) :
    s.st.stagesLeft ≤ 5 ∧ s.sleepsLeft ≤ 2 * loopSleepsLeft s.timeout.toNat s.cfg.pollInterval 0 := by
  refine ⟨by cases s.st <;> decide, ?_⟩
  unfold State.sleepsLeft
  rw [h0]
  split <;> omega

/-- Settles O43: acceptance leaves at most five stages and the sleeps of two whole loops. -/
theorem everyExchangeTerminates : Obligations.EveryExchangeTerminates := by
  intro i s t hq hl hc h
  obtain ⟨t', ht', hacc⟩ := exec_accepted i hq
  obtain rfl := Host.Outcome.next.inj (ht'.symm.trans h)
  have henv := hacc.envKept
  obtain ⟨hstages, hsleeps⟩ := State.left_le hacc.elapsed_eq
  have hends := (hacc.inv hq hl).endsWithin (henv.caller.trans hc) hacc.st_ne_idle
  rw [henv.cfg] at hsleeps
  have hreads : pollReads t'.timeout.toNat s.cfg.pollInterval =
      loopSleepsLeft t'.timeout.toNat s.cfg.pollInterval 0 + 1 := rfl
  obtain ⟨k, u, evs, hruns, hterm, hhist, htrans, hsleep⟩ :=
    hends.mono (m' := 2 * pollReads t'.timeout.toNat s.cfg.pollInterval + 3) (by omega) hsleeps
  exact ⟨k, u, evs, hruns, hterm, henv.history ▸ hhist, htrans, hsleep⟩

end Sys2Proof.Machine
end

section
/-! SUPPORT. The step in `AwaitRsp` of a typed operation: an accepted response has the length of the plan
(spec/41_session_fsm.md R142, R149) and goes to the operation's interpretation with the bytes stored, and the statements
about two of the interpretations (spec/42_typed_operations.md R190 to R192, R205 to R207). -/

namespace Sys2Proof.Machine

open Config (Params)

/-- A typed operation that has read an accepted response of its plan's length goes on to its interpretation. -/
theorem State.Inv.sessionStep_typed {s : State} {o : Op} {n : Nat} {R : List Byte} {rest : List PortAnswer} {k : Nat}
    (h : s.Inv) (hs : s.st = .awaitRsp) (ho : s.op = o.code) (hlen : o.fixedExpLen = some n)
    (ha : ReadAnswered s (s.expLen + 1) (.readOk R) rest k) (hacc : ResponseAccepted s.cfg (R.drop 1)) :
    (R.drop 1).length = n ∧
      sessionStep s =
        interpret (R.drop 1)
          ((s.afterEvent (.read s.cfg.peerAddr (n + 1) (.readOk R)) rest k).storeRead (Memory.setAll s.rxbuf 0 R)
            (n + 1)) := by
  have hexp : s.expLen = n := h.len (by rw [hs]; rfl) o n (Op.ofCode_eq_some.2 ho) hlen
  obtain ⟨hfits, -⟩ := (regsLegal_iff s).1 h.regs
  obtain ⟨-, hread⟩ := stepResponse_eq hfits ha
  obtain ⟨hl, hstep, -⟩ := hread R rfl
  subst hexp
  exact ⟨by rw [List.length_drop, hl, Nat.add_sub_cancel], (sessionStep_response h.op hs).trans (hstep hacc)⟩

/-- While busy the byte-sequence result is empty (spec/30_encoding.md R83). -/
theorem State.Inv.result_empty {s : State} (h : s.Inv) (hb : s.st.quiescent = false) :
    s.resLen = 0 ∧ s.resBytes = [] := by
  obtain ⟨-, -, hlen⟩ := h.noResult hb
  obtain ⟨-, hres⟩ := h.res
  exact ⟨hlen, List.eq_nil_of_length_eq_zero (hres.trans hlen)⟩

/-- The longest typed response fits, whatever the parameters (spec/00_scope.md R6). -/
theorem Params.le_rxMaxFrame (p : Params) {n : Nat} (h : n ≤ 20) : n ≤ p.rxMaxFrame := by
  obtain ⟨-, hroom, -⟩ := Params.room p
  exact h.trans hroom

/-- With no result there yet, a byte-sequence result is all that is there. -/
theorem finish_bytes_fresh {c : Success} {r : Results} {bs : List Byte} {s : State} (h0 : s.resBytes = [])
    (h : r.bytes = some bs) (hl : bs.length ≤ s.cfg.rxMaxFrame) :
    s.finish c r = .next ((s.finishWord c r).withResultBytes (Memory.setAll [] 0 bs) bs.length) :=
  h0 ▸ finish_bytes s h hl

/-- Settles O34: the header decides, and the version is packed from the four bytes handed back. -/
theorem firmwareResponseIsInterpreted : Obligations.FirmwareResponseIsInterpreted := by
  intro s R rest k hinv hs ho ha hacc d t
  obtain ⟨hl, hstep⟩ := hinv.sessionStep_typed (o := .getFirmwareVersion) hs ho rfl ha hacc
  obtain ⟨-, hres⟩ := hinv.result_empty (by rw [hs]; rfl)
  let v := t.storeRead (Memory.setAll s.rxbuf 0 R) 14
  replace hstep : sessionStep s = interpretFirmware d v := hstep.trans (interpret_firmware ho)
  refine ⟨hl, _, rxStored_setAll s R, fun hheader => ?_, fun chip major minor build hheader hversion => ?_⟩
  · exact hstep.trans ((interpretFirmware_rejected hl hheader).trans (congrArg _ (raise_busy (s := v) _ hs rfl)))
  · have hroom : [chip, major, minor, build].length ≤ s.cfg.rxMaxFrame :=
      Params.le_rxMaxFrame s.cfg (show 4 ≤ 20 by decide)
    exact ⟨_, _, packVersion_toNat chip major minor build, Memory.holds_setAll_nil _,
      hstep.trans ((interpretFirmware_accepted hl hheader hversion).trans (finish_bytes_fresh (s := v) hres rfl hroom))⟩

/-- Settles O36: the count decides between `NOT_FOUND` and the UID, and the UID's end between the overrun and the result. -/
theorem detectionResponseIsInterpreted : Obligations.DetectionResponseIsInterpreted := by
  intro s R rest k hinv hs ho ha hacc d t
  obtain ⟨hl, hstep⟩ := hinv.sessionStep_typed (o := .readDetectedTarget) hs ho rfl ha hacc
  obtain ⟨hlen, hres⟩ := hinv.result_empty (by rw [hs]; rfl)
  let v := t.storeRead (Memory.setAll s.rxbuf 0 R) 21
  replace hstep : sessionStep s = interpretTarget d v := hstep.trans (interpret_target ho)
  refine ⟨hl, _, rxStored_setAll s R, fun hcount => ?_, fun u hcount hu => ⟨fun hover => ?_, fun hfits => ?_⟩⟩
  · rw [hstep, interpretTarget_none (u := v) hl hcount, finish_none v rfl]
    simp only [State.finishWord, show v.resLen = 0 from hlen]
    rfl
  · exact hstep.trans
      ((interpretTarget_overrun (u := v) hl hcount hu hover).trans (congrArg _ (raise_busy (s := v) _ hs rfl)))
  · let uid := slice d s.cfg.uidOffset (s.cfg.uidOffset + u.toNat)
    have huid : uid.length = u.toNat := (slice_length (by rw [hl]; exact hfits)).trans (Nat.add_sub_cancel_left _ _)
    have hroom : u.toNat ≤ s.cfg.rxMaxFrame := Params.le_rxMaxFrame s.cfg (by omega)
    refine ⟨uid, _, huid, fun i hi => slice_getElem? d _ _ i (by omega), Memory.holds_setAll_nil uid, ?_⟩
    rw [hstep, interpretTarget_accepted (u := v) hl hcount hu hfits,
      finish_bytes_fresh (s := v) (bs := uid) hres rfl (huid.trans_le hroom), huid]
    rfl

end Sys2Proof.Machine
end

section
/-! SUPPORT. The past of a state, its history and its mark, is recorded and never read (spec/10_state.md R29,
spec/41_session_fsm.md R160): a session step, and a run the caller leaves alone, take `s.withPast h m` where they take `s`,
with the same past added; and what acceptance makes of a quiescent state is what it makes of the reset state, past added. -/

namespace Sys2Proof.Machine

/-! ### A longer past -/

/-- `s` with the events `h` before its own, and its mark set if `m` is. -/
def State.withPast (h : List Event) (m : Bool) (s : State) : State :=
  { s with history := h ++ s.history, concurrent := s.concurrent || m }

/-- The outcome with its next state, if it has one, changed by `g`. -/
def mapNext (g : State → State) : Result → Result
  | .next t => .next (g t)
  | .fault f => .fault f
  | .refused r => .refused r

@[simp] theorem mapNext_next (g : State → State) (t : State) : mapNext g (.next t) = .next (g t) := rfl
@[simp] theorem mapNext_fault (g : State → State) (f : Fault) : mapNext g (.fault f) = .fault f := rfl
@[simp] theorem mapNext_refused (g : State → State) (r : Refusal) : mapNext g (.refused r) = .refused r := rfl

/-- A changed outcome has a next state only if the outcome had. -/
theorem mapNext_eq_next {g : State → State} {r : Result} {u : State} (h : mapNext g r = .next u) :
    ∃ t, r = .next t ∧ g t = u := by
  cases r with
  | next t => exact ⟨t, rfl, Host.Outcome.next.inj h⟩
  | fault | refused => exact absurd h nofun

/-- Two longer pasts of one state differ in the history and the mark alone. -/
theorem sameButHistory_withPast (h₁ h₂ : List Event) (m₁ m₂ : Bool) (s : State) :
    SameButHistory (s.withPast h₁ m₁) (s.withPast h₂ m₂) := rfl

section
variable (h : List Event) (m : Bool) (s : State)

@[simp] theorem State.withPast_cfg : (s.withPast h m).cfg = s.cfg := rfl
@[simp] theorem State.withPast_st : (s.withPast h m).st = s.st := rfl
@[simp] theorem State.withPast_op : (s.withPast h m).op = s.op := rfl
@[simp] theorem State.withPast_timeout : (s.withPast h m).timeout = s.timeout := rfl
@[simp] theorem State.withPast_elapsed : (s.withPast h m).elapsed = s.elapsed := rfl
@[simp] theorem State.withPast_expLen : (s.withPast h m).expLen = s.expLen := rfl
@[simp] theorem State.withPast_txlen : (s.withPast h m).txlen = s.txlen := rfl
@[simp] theorem State.withPast_txbuf : (s.withPast h m).txbuf = s.txbuf := rfl
@[simp] theorem State.withPast_rxbuf : (s.withPast h m).rxbuf = s.rxbuf := rfl
@[simp] theorem State.withPast_resBytes : (s.withPast h m).resBytes = s.resBytes := rfl
@[simp] theorem State.withPast_transport : (s.withPast h m).transport = s.transport := rfl

/-! ### Every update of a session step leaves the past where it is -/

@[simp] theorem State.withPast_raise (e : Err) : (s.withPast h m).raise e = (s.raise e).withPast h m := rfl

@[simp] theorem State.withPast_log (e : Event) : (s.withPast h m).log e = (s.log e).withPast h m := by
  simp [State.withPast, State.log]

@[simp] theorem State.withPast_sleepOnce : (s.withPast h m).sleepOnce = s.sleepOnce.withPast h m := by
  simp [State.sleepOnce, State.withPast, State.log]

@[simp] theorem State.withPast_enterPoll (t : St) : (s.withPast h m).enterPoll t = (s.enterPoll t).withPast h m := rfl

@[simp] theorem State.withPast_storeRead (b : Memory) (n : Nat) :
    (s.withPast h m).storeRead b n = (s.storeRead b n).withPast h m := rfl

theorem State.withPast_finish (c : Success) (r : Results) :
    (s.withPast h m).finish c r = mapNext (State.withPast h m) (s.finish c r) := by
  unfold State.finish
  cases r.bytes with
  | none => rfl
  | some bs =>
    simp only [State.withPast_resBytes, State.withPast_cfg]
    cases memWrite s.resBytes s.cfg.rxMaxFrame 0 bs <;> rfl

/-- The transport does not see the past, and its answers leave it. -/
theorem State.withPast_nextAnswer (fits : PortAnswer → Bool) (free : Nat → PortAnswer) :
    (s.withPast h m).nextAnswer fits free =
      ((s.nextAnswer fits free).1, (s.nextAnswer fits free).2.withPast h m) := by
  unfold State.nextAnswer
  rw [State.withPast_transport]
  cases s.transport with
  | nil => rfl
  | cons a rest => dsimp only; split <;> rfl

theorem State.withPast_portWrite (B : List Byte) :
    (s.withPast h m).portWrite B = ((s.portWrite B).1, (s.portWrite B).2.withPast h m) := by
  simp [State.portWrite, State.withPast_nextAnswer]

theorem State.withPast_portRead (n : Nat) :
    (s.withPast h m).portRead n = ((s.portRead n).1, (s.portRead n).2.withPast h m) := by
  simp [State.portRead, State.withPast_nextAnswer]

/-! ### Every session step does -/

theorem stepSending_withPast : stepSending (s.withPast h m) = mapNext (State.withPast h m) (stepSending s) := by
  unfold stepSending
  simp only [State.withPast_txbuf, State.withPast_cfg, State.withPast_txlen]
  cases memRead s.txbuf s.cfg.maxCmdFrame 0 s.txlen with
  | error f => rfl
  | ok B =>
    simp only [State.withPast_portWrite]
    obtain ⟨a, t⟩ := s.portWrite B
    cases a <;> rfl

theorem pollReady_withPast : pollReady (s.withPast h m) = mapNext (State.withPast h m) (pollReady s) := by
  unfold pollReady
  simp only [State.withPast_st, State.withPast_op, State.withPast_finish]
  cases s.st with
  | awaitReadyRsp =>
    cases (Op.ofCode s.op).bind Op.afterReady with
    | none => rfl
    | some c => cases c <;> rfl
  | idle | sending | awaitReadyAck | awaitAck | awaitRsp | done | timedOut | failed => rfl

theorem stepPoll_withPast : stepPoll (s.withPast h m) = mapNext (State.withPast h m) (stepPoll s) := by
  unfold stepPoll
  rw [State.withPast_portRead]
  obtain ⟨a, t⟩ := s.portRead 1
  cases a with
  | ioError | writeOk => rfl
  | readOk R =>
    simp only [pollReady_withPast, State.withPast_elapsed, State.withPast_timeout, State.withPast_st,
      State.withPast_raise, State.withPast_sleepOnce]
    split
    · rfl
    · split <;> rfl

theorem ackGood_withPast : ackGood (s.withPast h m) = mapNext (State.withPast h m) (ackGood s) := by
  unfold ackGood
  simp only [State.withPast_op, State.withPast_finish]
  cases (Op.ofCode s.op).bind Op.afterAck with
  | none => rfl
  | some c => cases c <;> rfl

theorem stepAck_withPast : stepAck (s.withPast h m) = mapNext (State.withPast h m) (stepAck s) := by
  unfold stepAck
  rw [State.withPast_portRead]
  obtain ⟨a, t⟩ := s.portRead ackReadLength
  cases a with
  | ioError | writeOk => rfl
  | readOk R =>
    simp only [State.withPast_rxbuf, State.withPast_cfg, State.withPast_storeRead, ackGood_withPast,
      State.withPast_raise]
    cases memWrite t.rxbuf t.cfg.rxCap 0 R with
    | error f => rfl
    | ok b => dsimp only; split <;> rfl

theorem interpretFirmware_withPast (d : List Byte) :
    interpretFirmware d (s.withPast h m) = mapNext (State.withPast h m) (interpretFirmware d s) := by
  unfold interpretFirmware
  rw [State.withPast_finish, State.withPast_raise]
  split
  · rfl
  · split <;> rfl

theorem interpretSam_withPast (d : List Byte) :
    interpretSam d (s.withPast h m) = mapNext (State.withPast h m) (interpretSam d s) := by
  unfold interpretSam
  rw [State.withPast_finish, State.withPast_raise, State.withPast_cfg]
  split
  · rfl
  · split <;> rfl

theorem interpretTarget_withPast (d : List Byte) :
    interpretTarget d (s.withPast h m) = mapNext (State.withPast h m) (interpretTarget d s) := by
  unfold interpretTarget
  simp only [State.withPast_finish, State.withPast_raise, State.withPast_cfg]
  split
  · rfl
  · split
    · rfl
    · split <;> rfl

theorem interpret_withPast (d : List Byte) :
    interpret d (s.withPast h m) = mapNext (State.withPast h m) (interpret d s) := by
  unfold interpret
  rw [State.withPast_op, State.withPast_finish, interpretFirmware_withPast, interpretSam_withPast,
    interpretTarget_withPast]
  cases Op.ofCode s.op with
  | none => rfl
  | some o => cases o <;> rfl

theorem stepResponse_withPast : stepResponse (s.withPast h m) = mapNext (State.withPast h m) (stepResponse s) := by
  unfold stepResponse
  rw [State.withPast_expLen, State.withPast_portRead]
  obtain ⟨a, t⟩ := s.portRead (s.expLen + 1)
  cases a with
  | ioError | writeOk => rfl
  | readOk R =>
    simp only [State.withPast_rxbuf, State.withPast_cfg, State.withPast_storeRead, interpret_withPast,
      State.withPast_raise]
    cases memWrite t.rxbuf t.cfg.rxCap 0 R with
    | error f => rfl
    | ok b =>
      simp only [State.storeRead_cfg, State.storeRead_expLen, State.withPast_expLen]
      cases unframeResponse t.cfg.verifyRspChecksum R t.expLen <;> rfl

theorem sessionStep_withPast : sessionStep (s.withPast h m) = mapNext (State.withPast h m) (sessionStep s) := by
  unfold sessionStep
  rw [show (s.withPast h m).opFits = s.opFits from rfl, State.withPast_st, stepSending_withPast, stepPoll_withPast,
    stepAck_withPast, stepResponse_withPast]
  cases s.opFits with
  | false => rfl
  | true => cases s.st <;> rfl

end

/-! ### Runs the caller leaves alone -/

/-- A session step leaves the caller's acts alone. -/
theorem sessionStep_caller {s t : State} (h : sessionStep s = .next t) : t.caller = s.caller := by
  cases hb : s.st.quiescent with
  | true =>
    obtain rfl := Host.Outcome.next.inj ((sessionStep_quiescent hb).symm.trans h)
    rfl
  | false =>
    obtain ⟨o, -, -, hmove⟩ := sessionStep_move hb h
    obtain ⟨-, -, -, hcaller⟩ := hmove.kept
    exact hcaller

/-- With no act of the caller's left, the step is the session's. -/
theorem stepLegal_session {s : State} (hc : s.caller = []) : stepLegal s = sessionStep s := by
  simp only [stepLegal, hc]

theorem step_withPast (h : List Event) (m : Bool) {s : State} (hc : s.caller = []) :
    step (s.withPast h m) = mapNext (State.withPast h m) (step s) := by
  unfold step
  rw [State.withPast_cfg, show (s.withPast h m).regsLegal = s.regsLegal from rfl, stepLegal_session hc,
    stepLegal_session (s := s.withPast h m) hc, sessionStep_withPast]
  split
  · rfl
  · split <;> rfl

theorem step_caller_nil {s t : State} (h : step s = .next t) (hc : s.caller = []) : t.caller = [] := by
  obtain ⟨-, -, hstep⟩ := legal_of_step_next h
  rw [stepLegal_session hc] at hstep
  exact (sessionStep_caller hstep).trans hc

theorem runs_withPast (h : List Event) (m : Bool) (k : Nat) {s : State} (hc : s.caller = []) :
    runs k (s.withPast h m) = mapNext (State.withPast h m) (runs k s) := by
  induction k generalizing s with
  | zero => rfl
  | succ k ih =>
    rw [runs, runs, step_withPast h m hc]
    cases hs : step s with
    | next t => exact ih (step_caller_nil hs hc)
    | fault | refused => rfl

/-! ### Acceptance -/

/-- The session of `s` as a reset leaves it, with its mark cleared too: what acceptance in a quiescent state depends on. -/
def State.blank (s : State) : State := { s.resetBlock with concurrent := false }

/-- The body of an acceptance reads neither the past nor which of the quiescent states it starts in. -/
def OpensAlike (body : State → Result) : Prop :=
  ∀ (c : State) (h : List Event) (m : Bool) (q : St), c.st.quiescent = true → q.quiescent = true →
    body { c.withPast h m with st := q } = mapNext (State.withPast h m) (body c)

/-- `raise` reads of `st` only whether it is quiescent (spec/60_exceptions.md R236). -/
theorem raise_opensAlike (e : Err) : OpensAlike (fun c => .next (c.raise e)) := by
  intro c h m q hc hq
  simp [State.raise, State.withPast, hc, hq]

/-- `finish` does not read `st` (R237). -/
theorem finish_opensAlike (o : Success) (r : Results) : OpensAlike (State.finish o r) := fun c h m _ _ _ =>
  show (c.withPast h m).finish o r = _ from State.withPast_finish h m c o r

/-- Latching a plan writes `st`, or raises (spec/41_session_fsm.md R141 (4)). -/
theorem latchPlan_opensAlike (p : Plan) : OpensAlike (latchPlan p) := by
  intro c h m q hc hq
  cases hp : p.payload with
  | none => rw [latchPlan_none _ hp, latchPlan_none _ hp]; rfl
  | some P =>
    have herror : ∀ x, encodeFrame c.cfg.maxPayload P = .error x →
        latchPlan p { c.withPast h m with st := q } = mapNext (State.withPast h m) (latchPlan p c) := fun x he => by
      rw [latchPlan_error _ hp he, latchPlan_error (c := { c.withPast h m with st := q }) hp he]
      exact raise_opensAlike _ (c.latchBudget p) h m q hc hq
    rcases encodeFrame_cases c.cfg.maxPayload P with ⟨-, he⟩ | ⟨-, -, he⟩ | ⟨h0, h1, -⟩
    · exact herror _ he
    · exact herror _ he
    · rw [latchPlan_ok _ hp h0 h1, latchPlan_ok (c := { c.withPast h m with st := q }) hp h0 h1]
      rfl

/-- Acceptance clears what a reset clears, but for `st` and the past. -/
theorem clearForAccept_eq_blank (op : Byte) (s : State) :
    s.clearForAccept op = { (s.blank.clearForAccept op).withPast s.history s.concurrent with st := s.st } := by
  simp [State.clearForAccept, State.withPast, State.blank, State.resetBlock, State.resetWith]

/-- The argument checks of acceptance read the parameters alone, so acceptance in a quiescent state is acceptance in the
blank one, with the past added. -/
theorem accept_eq_blank {o : Op} {d : Option (List Byte)} {n : Option Half} {body : State → Result} {s : State}
    (hs : s.st.quiescent = true) (hbody : OpensAlike body) :
    accept o d n body s = mapNext (State.withPast s.history s.concurrent) (accept o d n body s.blank) := by
  by_cases hd : (d.getD []).length ≤ s.cfg.rxCap
  · by_cases hn : (n.getD 0).toNat ≤ s.cfg.rxMaxFrame
    · rw [accept_body hs hd hn, accept_body (s := s.blank) rfl hd hn, clearForAccept_eq_blank]
      exact hbody _ _ _ _ rfl hs
    · cases n with
      | none => exact absurd (Nat.zero_le _) hn
      | some n =>
        have hlong : s.cfg.rxMaxFrame < n.toNat := not_le.1 hn
        rw [accept_expLenTooLarge hs hd hlong, accept_expLenTooLarge (s := s.blank) rfl hd hlong,
          clearForAccept_eq_blank]
        exact raise_opensAlike _ (s.blank.clearForAccept o.code) _ _ _ rfl hs
  · cases d with
    | none => exact absurd (Nat.zero_le _) hd
    | some d =>
      have hlong : s.cfg.rxCap < d.length := not_le.1 hd
      rw [accept_dataTooLong hs hlong, accept_dataTooLong (s := s.blank) rfl hlong, clearForAccept_eq_blank]
      exact raise_opensAlike _ (s.blank.clearForAccept o.code) _ _ _ rfl hs

/-- What presenting an operation to a quiescent session does depends on the operation, the parameters and what the agents
around the block hold (spec/10_state.md R29). -/
theorem exec_eq_blank (i : Instr) {s : State} (hs : s.st.quiescent = true) :
    exec i s = mapNext (State.withPast s.history s.concurrent) (exec i s.blank) := by
  cases i with
  | encodeCommand data =>
    simp only [exec, execEncodeCommand]
    refine accept_eq_blank hs fun c h m q hc hq => ?_
    dsimp only [State.withPast_cfg]
    cases encodeFrame c.cfg.maxPayload data with
    | error x => exact raise_opensAlike _ c h m q hc hq
    | ok F => exact finish_opensAlike _ _ c h m q hc hq
  | genChecksum data => exact accept_eq_blank hs (finish_opensAlike _ _)
  | verifyAck data =>
    simp only [exec, execVerifyAck]
    refine accept_eq_blank hs fun c h m q hc hq => ?_
    dsimp only
    split
    · exact raise_opensAlike _ c h m q hc hq
    · exact finish_opensAlike _ _ c h m q hc hq
  | decodeResponse data n =>
    simp only [exec, execDecodeResponse]
    refine accept_eq_blank hs fun c h m q hc hq => ?_
    dsimp only [State.withPast_cfg]
    cases unframeResponse c.cfg.verifyRspChecksum data n.toNat with
    | error x => exact raise_opensAlike _ c h m q hc hq
    | ok d => exact finish_opensAlike _ _ c h m q hc hq
  | checkFrame data tfi =>
    simp only [exec, execCheckFrame]
    refine accept_eq_blank hs fun c h m q hc hq => ?_
    cases frameCheck data tfi with
    | error x => exact raise_opensAlike _ c h m q hc hq
    | ok d => exact finish_opensAlike _ _ c h m q hc hq
  | waitReady | sendCommand | transceive | readResponse | getFirmwareVersion | readDetectedTarget =>
    exact accept_eq_blank hs (latchPlan_opensAlike _)
  | configureSam | startPassiveDetection =>
    exact accept_eq_blank hs fun c h m q hc hq => latchPlan_opensAlike _ c h m q hc hq

/-! ### The statement -/

/-- Settles O44: acceptance takes both states to longer pasts of one state, and from there every run is that state's run
with the past added. -/
theorem exchangeDependsOnRequestAndAnswersOnly : Obligations.ExchangeDependsOnRequestAndAnswersOnly := by
  intro i s₁ s₂ t₁ t₂ hq₁ hq₂ hcfg hc₁ hc₂ htransport hcalls h₁ h₂
  have hblank : s₂.blank = s₁.blank := by
    simp only [State.blank, State.resetBlock, hcfg, hc₁, hc₂, htransport, hcalls]
  obtain ⟨t, ht, hacc⟩ := exec_accepted i (s := s₁.blank) rfl
  have hc : t.caller = [] := hacc.envKept.caller.trans hc₁
  rw [exec_eq_blank i hq₁, ht] at h₁
  rw [exec_eq_blank i hq₂, hblank, ht] at h₂
  obtain rfl := Host.Outcome.next.inj h₁
  obtain rfl := Host.Outcome.next.inj h₂
  refine ⟨sameButHistory_withPast _ _ _ _ t, fun k u₁ hu => ?_⟩
  rw [runs_withPast _ _ k hc] at hu
  obtain ⟨u, hrun, rfl⟩ := mapNext_eq_next hu
  refine ⟨u.withPast s₂.history s₂.concurrent, u.history, ?_, sameButHistory_withPast _ _ _ _ u, rfl, rfl⟩
  rw [runs_withPast _ _ k hc, hrun, mapNext_next]

end Sys2Proof.Machine
end

section
/-! SUPPORT. One step of the whole machine as a move (`step_move`): a session move, an acceptance, a mark or a reset;
and the statements that hold of every step by a case analysis on it (spec/10_state.md R24, spec/20_memory.md R62,
spec/41_session_fsm.md R151, R154, spec/60_exceptions.md R236, spec/70_reset_and_hazards.md R260 to R262). -/

namespace Sys2Proof.Machine

open Config (Params)

/-! ### Which act of the caller a step takes -/

section
variable {s : State} {r : Request} {rest : List CallerAct}

theorem stepLegal_pass (hc : s.caller = .pass :: rest) : stepLegal s = sessionStep (s.withCaller rest) := by
  simp only [stepLegal, hc]

theorem stepLegal_reset (hc : s.caller = .reset :: rest) : stepLegal s = .next (s.withCaller rest).resetBlock := by
  simp only [stepLegal, hc]

theorem stepLegal_present (hc : s.caller = .present r :: rest) :
    stepLegal s = presentRequest r (s.withCaller rest) := by
  simp only [stepLegal, hc]

theorem stepLegal_call (hc : s.caller = .call r :: rest) (hq : s.st.quiescent = true) :
    stepLegal s = presentRequest r (s.withCaller rest) := by
  simp only [stepLegal, hc, hq, if_true]

/-- A call waits while the session is busy. -/
theorem stepLegal_call_busy (hc : s.caller = .call r :: rest) (hb : s.st.quiescent = false) :
    stepLegal s = sessionStep s := by
  simp only [stepLegal, hc, hb, Bool.false_eq_true, if_false]

end

/-! ### The moves of the machine -/

/-- The moves of the machine from `u`, the state with the caller's act taken. -/
inductive StepMove (u : State) : State → Prop
  /-- A quiescent session waits. -/
  | waits (hq : u.st.quiescent = true) : StepMove u u
  /-- A busy session takes its step. -/
  | session (o : Op) {t : State} (hb : u.st.quiescent = false) (ho : Op.ofCode u.op = some o)
      (hf : o.fitsState u.st = true) (h : SessionMove u o t) : StepMove u t
  /-- The caller resets the block. -/
  | reset : StepMove u u.resetBlock
  /-- A quiescent session accepts an operation. -/
  | accepts (i : Instr) {t : State} (hq : u.st.quiescent = true) (h : Accepted i u t) : StepMove u t
  /-- A quiescent session accepts a reserved code. -/
  | rejects (op : Byte) (hq : u.st.quiescent = true) (hn : ∀ o : Op, op ≠ o.code) :
      StepMove u ((u.clearForAccept op).raise (.invalidArgument .unknownOperation))
  /-- A busy session refuses a request. -/
  | marks (hb : u.st.quiescent = false) : StepMove u u.markConcurrent

theorem sessionStep_stepMove {u t : State} (h : sessionStep u = .next t) : StepMove u t := by
  cases hb : u.st.quiescent with
  | true =>
    obtain rfl := Host.Outcome.next.inj ((sessionStep_quiescent hb).symm.trans h)
    exact .waits hb
  | false =>
    obtain ⟨o, ho, hf, hmove⟩ := sessionStep_move hb h
    exact .session o hb ho hf hmove

theorem presentRequest_stepMove {r : Request} {u t : State} (h : presentRequest r u = .next t) : StepMove u t := by
  cases hb : u.st.quiescent with
  | true =>
    obtain ⟨v, hv, hcase⟩ := presentRequest_quiescent r hb
    obtain rfl := Host.Outcome.next.inj (hv.symm.trans h)
    rcases hcase with ⟨i, -, hacc⟩ | ⟨hn, rfl⟩
    · exact .accepts i hb hacc
    · exact .rejects r.opsel hb hn
  | false =>
    obtain rfl := Host.Outcome.next.inj ((presentRequest_busy r hb).symm.trans h)
    exact .marks hb

/-- Every step is a move, of the state with the schedule that the caller is left with. -/
theorem step_move {s t : State} (h : step s = .next t) : ∃ acts, StepMove (s.withCaller acts) t := by
  obtain ⟨acts, -, hsession | ⟨-, rfl⟩ | ⟨r, -, hpresent⟩⟩ := step_cases h
  · exact ⟨acts, sessionStep_stepMove hsession⟩
  · exact ⟨acts, .reset⟩
  · exact ⟨acts, presentRequest_stepMove hpresent⟩

/-! ### The invariant at reset, and over every step -/

/-- The reset state is what acceptance clears an idle session to. -/
theorem resetWith_inv {p : Params} (h : p.Legal) : (State.resetWith p).Inv :=
  clearForAccept_idle_inv (s := State.resetWith p) h 0x00

theorem vectorParams_legal : Config.vectorParams.Legal := by decide

/-- Settles O2: every register is in its range at reset, every buffer empty and no exchange in progress. -/
theorem resetMeetsInvariant : Obligations.ResetMeetsInvariant :=
  ⟨fun _ hp => resetWith_inv hp, resetWith_inv vectorParams_legal⟩

/-- The invariant does not speak of the caller. -/
theorem State.Inv.withCaller {s : State} (h : s.Inv) (acts : List CallerAct) : (s.withCaller acts).Inv :=
  ⟨h.params, h.regs, h.tx, h.rx, h.res, h.op, h.len, h.frame, h.noResult, h.outcome⟩

/-- Nor of the mark. -/
theorem State.Inv.markConcurrent {s : State} (h : s.Inv) : s.markConcurrent.Inv :=
  ⟨h.params, h.regs, h.tx, h.rx, h.res, h.op, h.len, h.frame, h.noResult, h.outcome⟩

/-- A reset clears the session as acceptance clears an idle one. -/
theorem resetBlock_inv {s : State} (h : s.cfg.Legal) : s.resetBlock.Inv :=
  clearForAccept_idle_inv (s := s.resetBlock) h 0x00

/-- A reserved code raises the one error it has in the table (spec/60_exceptions.md R232). -/
theorem rejected_inv {s : State} {op : Byte} (hq : s.st.quiescent = true) (hl : s.cfg.Legal)
    (hn : ∀ o : Op, op ≠ o.code) : ((s.clearForAccept op).raise (.invalidArgument .unknownOperation)).Inv := by
  rw [raise_quiescent (s := s.clearForAccept op) _ hq]
  refine (clearForAccept_idle_inv hl op).raise ⟨rfl, ?_⟩
  rw [State.clearForAccept_op, Op.ofCode_eq_none.2 hn]

theorem StepMove.inv {u t : State} (h : StepMove u t) (hinv : u.Inv) : t.Inv := by
  cases h with
  | waits => exact hinv
  | session o hb ho hf hmove => exact hmove.inv hinv hb ho hf
  | reset => exact resetBlock_inv hinv.params
  | accepts i hq hacc => exact hacc.inv hq hinv.params
  | rejects op hq hn => exact rejected_inv hq hinv.params hn
  | marks => exact hinv.markConcurrent

/-- Settles O45: the caller's act does not matter to the invariant, and every move keeps it. -/
theorem everyStepKeepsTheInvariant : Obligations.EveryStepKeepsTheInvariant := by
  intro s t hinv h
  obtain ⟨acts, hmove⟩ := step_move h
  exact hmove.inv (hinv.withCaller acts)

/-! ### Every state of the invariant has a next state -/

theorem presentRequest_total (r : Request) (s : State) : ∃ t, presentRequest r s = .next t := by
  cases hb : s.st.quiescent with
  | true =>
    obtain ⟨t, ht, -⟩ := presentRequest_quiescent r hb
    exact ⟨t, ht⟩
  | false => exact ⟨_, presentRequest_busy r hb⟩

/-- Settles O46: presenting a request and a reset always give a next state, and a session step does in the invariant. -/
theorem invariantStatesAlwaysStep : Obligations.InvariantStatesAlwaysStep := by
  intro s hinv
  rw [step_eq_stepLegal hinv.params hinv.regs]
  cases hc : s.caller with
  | nil => rw [stepLegal_session hc]; exact hinv.sessionStep_total
  | cons act rest =>
    cases act with
    | pass => rw [stepLegal_pass hc]; exact (hinv.withCaller rest).sessionStep_total
    | reset => exact ⟨_, stepLegal_reset hc⟩
    | present r => rw [stepLegal_present hc]; exact presentRequest_total r _
    | call r =>
      cases hb : s.st.quiescent with
      | true => rw [stepLegal_call hc hb]; exact presentRequest_total r _
      | false => rw [stepLegal_call_busy hc hb]; exact hinv.sessionStep_total

/-! ### What no step changes or clears -/

theorem StepMove.cfg_eq {u t : State} (h : StepMove u t) : t.cfg = u.cfg := by
  cases h with
  | waits | reset | rejects | marks => rfl
  | session o _ _ _ hmove =>
    obtain ⟨hcfg, -⟩ := hmove.kept
    exact hcfg
  | accepts i _ hacc => exact hacc.envKept.cfg

/-- Settles O47: no move writes the parameters. -/
theorem noStepChangesTheParameters : Obligations.NoStepChangesTheParameters := by
  intro s t h
  obtain ⟨acts, hmove⟩ := step_move h
  exact hmove.cfg_eq

/-- A session move leaves the mark. -/
theorem SessionMove.concurrent_eq {s t : State} {o : Op} (h : SessionMove s o t) : t.concurrent = s.concurrent := by
  cases h <;> rfl

theorem StepMove.concurrent_of_concurrent {u t : State} (h : StepMove u t) (hm : u.concurrent = true) :
    t.concurrent = true := by
  cases h with
  | waits | reset | rejects => exact hm
  | marks => rfl
  | session o _ _ _ hmove => exact hmove.concurrent_eq.trans hm
  | accepts i _ hacc => exact hacc.envKept.concurrent.trans hm

/-- Settles O28: a busy session does nothing with a request but mark it, and no move clears the mark. -/
theorem requestWhileBusySetsTheMarkOnly : Obligations.RequestWhileBusySetsTheMarkOnly := by
  refine ⟨fun r s hb => presentRequest_busy r hb, fun s t h hm => ?_⟩
  obtain ⟨acts, hmove⟩ := step_move h
  exact hmove.concurrent_of_concurrent hm

/-! ### The transition table (spec/41_session_fsm.md R154) -/

/-- Every busy state has a row that ends in `Failed`. -/
theorem St.canStep_failed {t : St} (hb : t.quiescent = false) : t.canStep .failed = true := by
  revert hb; cases t <;> decide

/-- An error ends in the terminal state that the table gives for the state it was raised in. -/
theorem Err.canStep_terminalState {e : Err} {t : St} (h : e.raisedIn t = true) (hb : t.quiescent = false) :
    t.canStep e.terminalState = true := by
  cases e with
  | timedOut r =>
    cases r with
    | forAck => obtain rfl : t = .awaitReadyAck := beq_iff_eq.1 h; rfl
    | forResponse => obtain rfl : t = .awaitReadyRsp := beq_iff_eq.1 h; rfl
  | invalidArgument | ioError | ackMismatch | protocolError | decodeError => exact St.canStep_failed hb

theorem SessionMove.canStep {s t : State} {o : Op} (h : SessionMove s o t) (hb : s.st.quiescent = false) :
    s.st.canStep t.st = true := by
  cases h with
  | failed _ _ _ e _ _ _ hi | failedStored _ _ _ _ e _ _ _ _ hi => exact Err.canStep_terminalState hi hb
  | written _ _ _ _ _ hs | readyForAck _ _ _ _ _ hs | readyForResponse _ _ _ _ _ hs | waited _ _ _ _ _ hs
  | acked _ _ _ _ _ _ hs | ackedToPoll _ _ _ _ _ _ hs | gave _ _ _ _ _ _ _ _ hs | gaveBytes _ _ _ _ _ _ _ _ _ hs =>
    rw [hs]; rfl
  | slept _ _ _ _ _ hs =>
    change s.st.canStep s.st = true
    rcases hs with hs | hs <;> rw [hs] <;> rfl

/-- Settles O48: each move is a row of the table. -/
theorem sessionFollowsTheTransitionTable : Obligations.SessionFollowsTheTransitionTable := by
  intro s t hb h
  obtain ⟨o, -, -, hmove⟩ := sessionStep_move hb h
  exact hmove.canStep hb

/-! ### Quiescent states (spec/41_session_fsm.md R151) -/

/-- Settles O49: without an act of the caller, or with a pass, the step is a session step, and a quiescent session has
none. -/
theorem terminalStatesAreLeftByTheCallerOnly : Obligations.TerminalStatesAreLeftByTheCallerOnly := by
  intro s t hq h
  obtain ⟨-, -, hstep⟩ := legal_of_step_next h
  have hnil : s.caller = [] → t = s := fun hc => by
    rw [stepLegal_session hc, sessionStep_quiescent hq] at hstep
    exact (Host.Outcome.next.inj hstep).symm
  have hpass : ∀ rest, s.caller = .pass :: rest → t = s.withCaller rest := fun rest hc => by
    rw [stepLegal_pass hc, sessionStep_quiescent (s := s.withCaller rest) hq] at hstep
    exact (Host.Outcome.next.inj hstep).symm
  refine ⟨hnil, hpass, fun hne => ?_⟩
  cases hc : s.caller with
  | nil => exact absurd (congrArg State.st (hnil hc)) hne
  | cons act rest =>
    refine ⟨act, rest, rfl, fun hact => hne ?_⟩
    rw [hpass rest (hact ▸ hc)]
    rfl

/-! ### Where outcomes are written (spec/60_exceptions.md R233, R236 to R238) -/

/-- An error of a busy session that no stored byte shows is a failed transaction or a timeout. -/
theorem Err.status_of_not_foundInBytes {e : Err} {t : St} (h : e.foundInBytes = false) (hi : e.raisedIn t = true)
    (hb : t.quiescent = false) : e.status = 0x02 ∨ e.status = 0x03 := by
  cases e with
  | invalidArgument =>
    obtain rfl : t = .idle := beq_iff_eq.1 hi
    exact absurd hb (by decide)
  | ioError => exact .inl rfl
  | timedOut => exact .inr rfl
  | ackMismatch | protocolError | decodeError => exact absurd h.symm Bool.false_ne_true

/-- A move that leaves the session busy does not write the outcome. -/
theorem SessionMove.outcome_of_busy {s t : State} {o : Op} (h : SessionMove s o t) (hb : t.st.quiescent = false) :
    t.status = s.status ∧ t.reason = s.reason ∧ t.failState = s.failState := by
  cases h with
  | failed ev rest k e | failedStored n rest k R e =>
    exact absurd ((raise_st_quiescent e _).symm.trans hb) (by decide)
  | waited | acked | gave | gaveBytes => exact absurd hb.symm Bool.false_ne_true
  | written | readyForAck | readyForResponse | slept | ackedToPoll => exact ⟨rfl, rfl, rfl⟩

/-- A move that ends in an error is a raise, before or after the bytes of its read are stored. -/
theorem SessionMove.raise_of_error {s t : State} {o : Op} (h : SessionMove s o t) (hb : s.st.quiescent = false)
    (ht : t.st = .failed ∨ t.st = .timedOut) :
    (∃ ev rest k e, (e.status = 0x02 ∨ e.status = 0x03) ∧ t = (s.afterEvent ev rest k).raise e) ∨
      ∃ n rest k R e, (e.status ≠ 0x02 ∧ e.status ≠ 0x03) ∧
        t = (s.afterStore (.read s.cfg.peerAddr n (.readOk R)) rest k R).raise e := by
  cases h with
  | failed ev rest k e _ _ he hi => exact .inl ⟨ev, rest, k, e, Err.status_of_not_foundInBytes he hi hb, rfl⟩
  | failedStored n rest k R e _ _ _ he =>
    obtain ⟨-, hstatus⟩ := Err.foundInBytes_spec he
    exact .inr ⟨n, rest, k, R, e, hstatus, rfl⟩
  | slept _ _ _ _ _ hs =>
    change s.st = .failed ∨ s.st = .timedOut at ht
    rcases ht with ht | ht <;> rw [ht] at hb <;> exact absurd hb (by decide)
  | written | readyForAck | readyForResponse | waited | acked | ackedToPoll | gave | gaveBytes => simp at ht

/-- Settles O51: a raise writes the outcome and `st` alone, on top of the one transaction of its step. -/
theorem outcomeIsWrittenAtTerminalEntryOnly : Obligations.OutcomeIsWrittenAtTerminalEntryOnly := by
  intro s t h hb
  obtain ⟨o, -, -, hmove⟩ := sessionStep_move hb h
  refine ⟨hmove.outcome_of_busy, fun ht => ?_⟩
  have hfail : ∀ {u : State} {e : Err}, u.st = s.st → (u.raise e).failState = s.st := fun {u e} hu => by
    rw [State.raise_failState, hu, hb, if_neg Bool.false_ne_true]
  obtain ⟨ev, rest, k, e, hstatus, rfl⟩ | ⟨n, rest, k, R, e, ⟨hio, htimeout⟩, rfl⟩ := hmove.raise_of_error hb ht
  · exact ⟨rfl, hfail rfl, rfl, rfl, rfl, rfl, rfl, rfl, rfl, rfl, rfl, rfl, rfl, rfl, ev, rfl, fun _ => ⟨rfl, rfl⟩,
      fun h2 h3 => absurd hstatus (not_or.2 ⟨h2, h3⟩)⟩
  · exact ⟨rfl, hfail rfl, rfl, rfl, rfl, rfl, rfl, rfl, rfl, rfl, rfl, rfl, rfl, rfl, _, rfl,
      fun hs => absurd hs (not_or.2 ⟨hio, htimeout⟩), fun _ _ => ⟨n, R, rfl, rfl, rxStored_setAll s R⟩⟩

/-- Presenting a request records no event. -/
theorem presentRequest_history {r : Request} {u t : State} (h : presentRequest r u = .next t) :
    t.history = u.history := by
  cases hb : u.st.quiescent with
  | true =>
    obtain ⟨v, hv, hcase⟩ := presentRequest_quiescent r hb
    obtain rfl := Host.Outcome.next.inj (hv.symm.trans h)
    rcases hcase with ⟨i, -, hacc⟩ | ⟨-, rfl⟩
    · exact hacc.envKept.history
    · rfl
  | false =>
    obtain rfl := Host.Outcome.next.inj ((presentRequest_busy r hb).symm.trans h)
    rfl

/-! ### What is written to the transport (spec/30_encoding.md R73, R79) -/

/-- In `Sending` the one event of a step is the write of the frame in `txbuf`. -/
theorem State.Inv.sending_history {s t : State} (h : s.Inv) (hs : s.st = .sending) (ht : sessionStep s = .next t) :
    ∃ a, t.history = s.history ++ [.write s.cfg.peerAddr (s.txbuf.map Prod.snd) a] := by
  obtain ⟨a, rest, k, ha, -⟩ := portWrite_cases [] s
  rw [sessionStep_sending h.op hs, stepSending_eq h.memRead_txbuf ha] at ht
  split at ht <;> obtain rfl := Host.Outcome.next.inj ht <;> exact ⟨a, rfl⟩

/-- The writes of a session step are command frames to the peer. -/
theorem State.Inv.write_of_sessionStep {s t : State} (h : s.Inv) (ht : sessionStep s = .next t) {peer : Nat}
    {B : List Byte} {a : PortAnswer} (hw : Event.write peer B a ∈ t.history) :
    Event.write peer B a ∈ s.history ∨
      (peer = s.cfg.peerAddr ∧ ∃ P : List Byte, 1 ≤ P.length ∧ P.length ≤ s.cfg.maxPayload ∧
        B = frameOf tfiCommand P) := by
  by_cases hs : s.st = .sending
  · obtain ⟨b, hhist⟩ := h.sending_history hs ht
    obtain ⟨P, h0, h1, hP⟩ := h.frame hs
    rw [hhist, List.mem_append, List.mem_singleton] at hw
    exact hw.imp_right fun heq => by
      obtain ⟨rfl, rfl, -⟩ := Event.write.inj heq
      exact ⟨rfl, P, h0, h1, hP⟩
  · obtain ⟨evs, hhist, -, hwidth⟩ := stepEventsHaveTheirWidths s t ht
    rw [hhist, List.mem_append] at hw
    exact hw.imp_right fun hmem => by
      obtain ⟨hsending, -⟩ : s.st = .sending ∧ _ := hwidth _ hmem
      exact absurd hsending hs

/-- Settles O53: only a session step in `Sending` writes, and it writes the frame that the invariant says is there. -/
theorem everyWriteIsACommandFrame : Obligations.EveryWriteIsACommandFrame := by
  intro s t hinv h peer B a hw
  obtain ⟨acts, -, hsession | ⟨-, rfl⟩ | ⟨r, -, hpresent⟩⟩ := step_cases h
  · exact (hinv.withCaller acts).write_of_sessionStep hsession hw
  · exact absurd hw List.not_mem_nil
  · refine .inl (?_ : _ ∈ (s.withCaller acts).history)
    rwa [presentRequest_history hpresent] at hw

/-! ### What the caller reads (spec/30_encoding.md R83, spec/60_exceptions.md R233) -/

/-- Settles O55: a busy session shows nothing, and the buffers of the invariant hold the bytes their lengths say. -/
theorem resultsAreReadableWhenQuiescent : Obligations.ResultsAreReadableWhenQuiescent := by
  intro s hinv
  refine ⟨fun hb => ?_, fun hq => ?_⟩
  · have hnot : ¬ s.st.quiescent = true := Bool.eq_false_iff.1 hb
    exact ⟨if_neg hnot, if_neg hnot⟩
  · obtain ⟨hres, hreslen⟩ := hinv.res
    obtain ⟨hrx, hrxlen, -⟩ := hinv.rx
    have hholds := Memory.holds_of_filled hres
    have hbytes : Memory.getAll s.resBytes 0 s.resLen = some (s.resBytes.map Prod.snd) := by
      simpa [hreslen] using Memory.getAll_of_holds hholds
    have hread := Memory.getAll_of_filled hrx hrxlen
    obtain ⟨hlen, hget⟩ := Memory.getAll_eq_some.1 hread
    refine ⟨⟨_, by rw [State.resultRecord, if_pos hq, hbytes]; rfl, hholds, by rw [List.length_map, hreslen]⟩,
      _, (if_pos hq).trans hread, hlen, fun i hi => ?_⟩
    rw [← hget i hi, Nat.zero_add]

end Sys2Proof.Machine
end

section
/-! SUPPORT. Requests and their records (spec/30_encoding.md R70 to R82), the codes of outcomes (spec/60_exceptions.md
R231, R232), the accesses of buffers (spec/20_memory.md R52), and the frame check read backwards (spec/40_codec.md
R120). -/

namespace Sys2Proof

/-! ### Encoder and decoder -/

/-- The encoder writes the code of the instruction's row. -/
theorem encode_opsel (i : Instr) : (encode i).opsel = i.op.code := by cases i <;> rfl

/-- An operation is read back from the fields of its encoding. -/
theorem instr_encode (i : Instr) : i.op.instr (encode i) = i := by cases i <;> rfl

/-- What is encoded again has the fields that were read, and no others. -/
theorem encode_instr (o : Op) (r : Request) : encode (o.instr r) = r.canonical o := by cases o <;> rfl

/-- A code of the table selects its row. -/
theorem decode_of_code {r : Request} {o : Op} (h : r.opsel = o.code) : decode r = .ok (o.instr r) := by
  rw [decode, Op.ofCode_eq_some.2 h]

/-- A reserved code is refused. -/
theorem decode_of_reserved {r : Request} (h : ∀ o : Op, r.opsel ≠ o.code) :
    decode r = .error (.reservedOpsel r.opsel) := by
  rw [decode, Op.ofCode_eq_none.2 h]

/-- Settles O4: the code selects the row, and the row reads the fields that the encoder wrote. -/
theorem decodeAndEncodeAgree : Obligations.DecodeAndEncodeAgree := by
  refine ⟨fun i => ?_, fun r i h => ?_, fun r => ⟨decode_of_reserved, fun h o ho => ?_⟩⟩
  · rw [decode_of_code (encode_opsel i), instr_encode]
  · obtain ⟨o, ho, hd⟩ | ⟨-, hd⟩ := decode_cases r
    · obtain rfl := Except.ok.inj (hd.symm.trans h)
      rw [Op.instr_op]
      exact ⟨encode_instr o r, ho⟩
    · cases hd.symm.trans h
  · cases (decode_of_code ho).symm.trans h

/-- Settles O3: each word is evaluated. -/
theorem opselWordsDecodeToTheirRows : Obligations.OpselWordsDecodeToTheirRows := by
  unfold Obligations.OpselWordsDecodeToTheirRows
  decide

/-- Settles O5: each text is read. -/
theorem textualRequestsReadAsTheirRecords : Obligations.TextualRequestsReadAsTheirRecords := by
  unfold Obligations.TextualRequestsReadAsTheirRecords
  decide

end Sys2Proof

namespace Sys2Proof.Machine

/-! ### Outcome codes -/

/-- Every row of the table of errors (spec/60_exceptions.md R232). -/
def Err.all : List Err :=
  [.invalidArgument .unknownOperation, .invalidArgument .dataTooLong, .invalidArgument .payloadEmpty,
    .invalidArgument .payloadTooLong, .invalidArgument .expLenTooLarge, .invalidArgument .badAckLength,
    .ioError .writeFailed, .ioError .readyReadFailed, .ioError .ackReadFailed, .ioError .rspReadFailed,
    .timedOut .forAck, .timedOut .forResponse, .ackMismatch, .protocolError .unexpectedHeader,
    .protocolError .configRejected, .protocolError .uidOverrun, .decodeError .lengthMismatch, .decodeError .truncated,
    .decodeError .badStartCode, .decodeError .badLengthChecksum, .decodeError .badLength, .decodeError .badDirection,
    .decodeError .badDataChecksum, .decodeError .badPostamble]

/-- The error that a status and a reason name, if they name one. -/
def Err.ofCodes (status reason : Byte) : Option Err :=
  Err.all.find? fun e => e.status == status && e.reason == reason

/-- The codes of an error name it. -/
theorem Err.ofCodes_codes (e : Err) : Err.ofCodes e.status e.reason = some e := by
  cases e with
  | ackMismatch => rfl
  | invalidArgument r | ioError r | timedOut r | protocolError r | decodeError r => cases r <;> rfl

/-- The status of an error lies between those of the two successes. -/
theorem Err.status_range (e : Err) : 0x01 ≤ e.status.toNat ∧ e.status.toNat ≤ 0x06 := by
  cases e <;> simp [Err.status]

/-- Settles O56: a status and a reason name at most one error, and every other clause is read off the two tables. -/
theorem errorCodesTellEveryErrorApart : Obligations.ErrorCodesTellEveryErrorApart := by
  refine ⟨fun e₁ e₂ hs hr => ?_, fun e o => ?_, by decide, by decide,
    ⟨fun _ => ⟨rfl, rfl⟩, fun _ => ⟨rfl, rfl⟩, fun _ => ⟨rfl, rfl⟩, ⟨rfl, rfl⟩, fun _ => ⟨rfl, rfl⟩,
      fun _ => ⟨rfl, rfl⟩⟩, by decide, by decide, by decide, by decide, by decide⟩
  · have h := e₂.ofCodes_codes
    rw [← hs, ← hr, e₁.ofCodes_codes] at h
    exact Option.some.inj h
  · obtain ⟨hlo, hhi⟩ := e.status_range
    have hne : ∀ b : Byte, b.toNat = 0x00 ∨ 0x07 ≤ b.toNat → e.status ≠ b := by
      rintro b hb rfl
      omega
    exact ⟨hne _ (by cases o <;> decide), hne _ (by decide), by cases o <;> decide⟩

/-! ### Reset -/

/-- Settles O1: the registers are those of the reset record. -/
theorem resetStateHoldsSpecValues : Obligations.ResetStateHoldsSpecValues :=
  ⟨fun _ => ⟨rfl, rfl, rfl, rfl, rfl, rfl, rfl, rfl, rfl, rfl, rfl, rfl, rfl, rfl, rfl, Memory.empty_nil,
    Memory.empty_nil, Memory.empty_nil, rfl⟩, Config.vectorParams, vectorParams_legal, rfl⟩

/-- Settles O29: the step takes the caller's act and resets the block. -/
theorem resetAbandonsTheExchange : Obligations.ResetAbandonsTheExchange := by
  intro s rest hp hr hc
  rw [step_eq_stepLegal hp hr, stepLegal_reset hc]
  rfl

/-! ### Steps of the caller -/

theorem presentRequest_of_ok {r : Request} {i : Instr} (h : decode r = .ok i) (s : State) :
    presentRequest r s = exec i s := by
  rw [presentRequest, h]

theorem presentRequest_of_reserved {r : Request} (h : ∀ o : Op, r.opsel ≠ o.code) (s : State) :
    presentRequest r s = acceptReserved r.opsel s := by
  rw [presentRequest, decode_of_reserved h]

/-- Settles O6: a request is presented when it is the caller's next act, but for a call to a busy session. -/
theorem stepRunsThePresentedRequest : Obligations.StepRunsThePresentedRequest := by
  intro s r i rest hp hr hd
  rw [step_eq_stepLegal hp hr, ← presentRequest_of_ok hd]
  exact ⟨stepLegal_present, stepLegal_call, stepLegal_call_busy⟩

/-- Settles O7: an empty schedule and a pass leave the step to the session. -/
theorem stepWithoutRequestIsASessionStep : Obligations.StepWithoutRequestIsASessionStep := by
  intro s hp hr
  rw [step_eq_stepLegal hp hr]
  exact ⟨stepLegal_session, fun _ => stepLegal_pass⟩

/-- Settles O8: acceptance of a reserved code clears the session and raises `UnknownOperation`. -/
theorem reservedOpselEndsInFailed : Obligations.ReservedOpselEndsInFailed := by
  intro s r hq hn
  have hnone : Memory.Holds [] [] := (Memory.holds_nil_iff []).2 Memory.empty_nil
  exact ⟨_, (presentRequest_of_reserved hn s).trans (acceptReserved_quiescent hq), rfl, ⟨rfl, rfl, rfl, if_pos hq⟩,
    ⟨rfl, rfl, rfl, hnone⟩, ⟨rfl, rfl, rfl, rfl, rfl, Memory.empty_nil, Memory.empty_nil⟩,
    ⟨rfl, rfl, rfl, rfl, rfl, rfl⟩⟩

/-! ### Buffer accesses (spec/20_memory.md R52) -/

theorem memWrite_overrun {m : Memory} {cap a : Nat} {v : List Byte} (h : cap < a + v.length) :
    memWrite m cap a v = .error .bufferOverrun := if_pos h

theorem memRead_overrun {m : Memory} {cap a n : Nat} (h : cap < a + n) :
    memRead m cap a n = .error .bufferOverrun := if_pos h

theorem memRead_noValue {m : Memory} {cap a n i : Nat} (h : a + n ≤ cap) (hi : i < n)
    (hv : Memory.get m (a + i) = none) : memRead m cap a n = .error .noValue := by
  rw [memRead, if_neg (not_lt.2 h), Memory.getAll_eq_none hi hv]

/-- Settles O16: the capacity test comes first, then the bytes. -/
theorem bufferAccessesFollowTheirRules : Obligations.BufferAccessesFollowTheirRules := by
  intro m cap a v hwf
  refine ⟨fun h => ?_, memWrite_overrun, fun n => ⟨memRead_overrun, fun i => memRead_noValue⟩⟩
  exact ⟨_, memWrite_ok h, Memory.wf_setAll a v hwf, memRead_ok h (Memory.getAll_setAll m a v),
    fun i hi => Memory.get_setAll_outside m v hi⟩

/-! ### The frame check, read backwards (spec/40_codec.md R120) -/

/-- Settles O13: the length checksum of the ack constant is off by one, and a zero length field is its own checksum. -/
theorem ackIsReportedAsBadLengthChecksum : Obligations.AckIsReportedAsBadLengthChecksum := fun _ _ =>
  ⟨(frameCheck_of_start (L := 0x00) (C := 0xFF) rfl rfl rfl).trans (if_pos (by decide)),
    (frameCheck_of_start (L := 0x00) (C := 0x00) rfl rfl rfl).trans ((if_neg (by decide)).trans (if_pos rfl))⟩

/-- A chain of tests passes when its first test does and the rest pass. -/
theorem ite_error_eq_ok_iff {ε α : Type} {p : Prop} [Decidable p] {x : ε} {r : Except ε α} {a : α} :
    (if p then .error x else r) = .ok a ↔ ¬p ∧ r = .ok a := by
  split <;> simp [*]

/-- A list from one of its elements on. -/
theorem drop_eq_cons_of_getElem? {F : List Byte} {i : Nat} {b : Byte} (h : F[i]? = some b) :
    F.drop i = b :: F.drop (i + 1) := by
  obtain ⟨hi, rfl⟩ := List.getElem?_eq_some_iff.1 h
  exact List.drop_eq_getElem_cons hi

/-- What the tests of a frame that passes have found, field by field. -/
theorem fields_of_frameCheck_ok {F : List Byte} {t : Byte} (h : frameCheck F t = .ok ()) :
    ∃ L : Byte, F.take 3 = startCode ∧ F[3]? = some L ∧ F[4]? = some (csum [L]) ∧ L.toNat ≠ 0 ∧
      F[5]? = some t ∧ F[5 + L.toNat]? = some (csum ((F.drop 5).take L.toNat)) ∧
      F[6 + L.toNat]? = some postamble := by
  have h5 := five_le_of_frameCheck_ok h
  by_cases hs : F.take 3 = startCode
  · have hL := getElem?_of_byteAt (B := F) (i := 3) (by omega)
    have hC := getElem?_of_byteAt (B := F) (i := 4) (by omega)
    rw [frameCheck_of_start hs hL hC] at h
    simp only [ite_error_eq_ok_iff, not_not, ne_eq, not_lt] at h
    obtain ⟨hsum, hL0, hlen, hdir, hdata, hpost, -⟩ := h
    rw [add_eq_zero_iff_eq_neg8] at hsum hdata
    refine ⟨_, hs, hL, ?_, hL0, ?_, ?_, ?_⟩
    · rw [hC, hsum]; simp [csum]
    · rw [getElem?_of_byteAt (by omega), hdir]
    · rw [getElem?_of_byteAt (by omega), hdata, csum]
    · rw [getElem?_of_byteAt (by omega), hpost]
  · cases (frameCheck_badStart t h5 hs).symm.trans h

/-- A list with the fields of a frame at their places is that frame, with a tail. -/
theorem eq_frameOf_append {F D : List Byte} {t L : Byte} (hs : F.take 3 = startCode) (hL : F[3]? = some L)
    (hC : F[4]? = some (csum [L])) (ht : F[5]? = some t) (hD : (F.drop 6).take D.length = D)
    (hlen : L = BitVec.ofNat 8 (D.length + 1)) (hK : F[6 + D.length]? = some (csum (t :: D)))
    (hp : F[7 + D.length]? = some postamble) : F = frameOf t D ++ F.drop (8 + D.length) := by
  have hdata : F.drop 6 = D ++ F.drop (6 + D.length) := by
    rw [← List.drop_drop]
    exact (List.take_append_drop D.length _).symm.trans (by rw [hD])
  calc F = startCode ++ F.drop 3 := by rw [← hs, List.take_append_drop]
    _ = startCode ++ L :: csum [L] :: t :: F.drop 6 := by
      rw [drop_eq_cons_of_getElem? hL, drop_eq_cons_of_getElem? hC, drop_eq_cons_of_getElem? ht]
    _ = startCode ++ L :: csum [L] :: t :: (D ++ csum (t :: D) :: postamble :: F.drop (8 + D.length)) := by
      rw [hdata, drop_eq_cons_of_getElem? hK, show 6 + D.length + 1 = 7 + D.length by omega,
        drop_eq_cons_of_getElem? hp, show 7 + D.length + 1 = 8 + D.length by omega]
    _ = frameOf t D ++ F.drop (8 + D.length) := by simp [frameOf, hlen]

/-- Settles O12: what passes has the fields of a frame at their places, so it is the frame of its data, with a tail. -/
theorem frameCheckPassesExactlyLaidOutFrames : Obligations.FrameCheckPassesExactlyLaidOutFrames := by
  intro F t
  constructor
  · intro h
    obtain ⟨L, hs, hL, hC, hL0, ht, hK, hp⟩ := fields_of_frameCheck_ok h
    obtain ⟨n, hn⟩ := Nat.exists_eq_succ_of_ne_zero hL0
    have hlong := (List.getElem?_eq_some_iff.1 hp).1
    have hlt := L.isLt
    have hD : ((F.drop 6).take n).length = n := by rw [List.length_take, List.length_drop]; omega
    rw [drop_eq_cons_of_getElem? ht, hn, List.take_succ_cons] at hK
    refine ⟨(F.drop 6).take n, _, by omega, eq_frameOf_append hs hL hC ht (by rw [hD]) ?_ ?_ ?_⟩
    · rw [hD, ← Nat.succ_eq_add_one, ← hn, BitVec.ofNat_toNat, BitVec.setWidth_eq]
    · rw [hD, show 6 + n = 5 + n.succ by omega, hK]
    · rw [hD, show 7 + n = 6 + n.succ by omega, ← hn, hp]
  · rintro ⟨D, tail, hD, rfl⟩
    exact frameCheck_append tail hD

end Sys2Proof.Machine
end

section
/-! SUPPORT. The history is recorded and never read (spec/41_session_fsm.md R160): a step gives one outcome, recorded
after whatever history it finds, but for a reset, which empties the history. -/

namespace Sys2Proof.Machine

/-- From `s`, `f` gives one outcome, with the history of its next state after whatever history `s` has. -/
def RecordsAfter (f : State → Result) (s : State) : Prop :=
  ∃ r : Result, ∀ h : List Event, f { s with history := h } = mapNext (State.withPast h false) r

/-- A step that is a step of `f` records as `f` does. -/
theorem RecordsAfter.of_eq {f g : State → Result} {s u : State} (hf : RecordsAfter f u)
    (h : ∀ past, g { s with history := past } = f { u with history := past }) : RecordsAfter g s := by
  obtain ⟨r, hr⟩ := hf
  exact ⟨r, fun past => (h past).trans (hr past)⟩

/-- `s` with the history `h` is `s` without one, and the past `h` added. -/
theorem withPast_history_nil (s : State) (h : List Event) :
    { s with history := h } = { s with history := [] }.withPast h false := by
  simp [State.withPast]

theorem sessionStep_recordsAfter (s : State) : RecordsAfter sessionStep s :=
  ⟨sessionStep { s with history := [] }, fun h => by rw [withPast_history_nil, sessionStep_withPast]⟩

/-- The mark of `s` is part of the one outcome. -/
theorem mapNext_withPast_mark (h : List Event) (m : Bool) (r : Result) :
    mapNext (State.withPast h m) r = mapNext (State.withPast h false) (mapNext (State.withPast [] m) r) := by
  cases r <;> simp [State.withPast]

/-- Refusing a request records nothing. -/
theorem markConcurrent_recordsAfter (s : State) : RecordsAfter (fun s => .next s.markConcurrent) s :=
  ⟨.next { s.markConcurrent with history := [] }, fun h => by simp [State.withPast, State.markConcurrent]⟩

theorem exec_recordsAfter (i : Instr) (s : State) : RecordsAfter (exec i) s := by
  cases hb : s.st.quiescent with
  | true =>
    refine ⟨mapNext (State.withPast [] s.concurrent) (exec i s.blank), fun h => ?_⟩
    rw [exec_eq_blank i (s := { s with history := h }) hb, mapNext_withPast_mark]
    rfl
  | false => exact (markConcurrent_recordsAfter s).of_eq fun h => exec_busy i hb

/-- Rejecting a reserved code records nothing. -/
theorem acceptReserved_recordsAfter (op : Byte) (s : State) : RecordsAfter (acceptReserved op) s := by
  cases hb : s.st.quiescent with
  | true =>
    refine ⟨.next { (s.clearForAccept op).raise (.invalidArgument .unknownOperation) with history := [] }, fun h => ?_⟩
    rw [acceptReserved_quiescent (s := { s with history := h }) hb]
    simp [State.withPast, State.raise, State.clearForAccept, hb]
  | false => exact (markConcurrent_recordsAfter s).of_eq fun h => acceptReserved_busy hb

theorem presentRequest_recordsAfter (r : Request) (s : State) : RecordsAfter (presentRequest r) s := by
  rcases decode_cases r with ⟨o, -, hd⟩ | ⟨hn, -⟩
  · exact (exec_recordsAfter (o.instr r) s).of_eq fun _ => presentRequest_of_ok hd _
  · exact (acceptReserved_recordsAfter r.opsel s).of_eq fun _ => presentRequest_of_reserved hn _

/-- A step records after the history it finds, or it resets the block. -/
theorem stepLegal_recordsAfter (s : State) :
    RecordsAfter stepLegal s ∨ ∃ t, t.history = [] ∧ ∀ h, stepLegal { s with history := h } = .next t := by
  cases hc : s.caller with
  | nil => exact .inl ((sessionStep_recordsAfter s).of_eq fun _ => stepLegal_session hc)
  | cons act rest =>
    cases act with
    | pass => exact .inl ((sessionStep_recordsAfter (s.withCaller rest)).of_eq fun _ => stepLegal_pass hc)
    | reset => exact .inr ⟨(s.withCaller rest).resetBlock, rfl, fun _ => stepLegal_reset rfl⟩
    | present r => exact .inl ((presentRequest_recordsAfter r (s.withCaller rest)).of_eq fun _ => stepLegal_present hc)
    | call r =>
      cases hb : s.st.quiescent with
      | true => exact .inl ((presentRequest_recordsAfter r (s.withCaller rest)).of_eq fun _ => stepLegal_call hc hb)
      | false => exact .inl ((sessionStep_recordsAfter s).of_eq fun _ => stepLegal_call_busy hc hb)

theorem step_recordsAfter (s : State) :
    RecordsAfter step s ∨ ∃ t, t.history = [] ∧ ∀ h, step { s with history := h } = .next t := by
  by_cases hp : s.cfg.Legal
  · cases hr : s.regsLegal with
    | true =>
      have hstep : ∀ h, step { s with history := h } = stepLegal { s with history := h } := fun h =>
        step_eq_stepLegal (s := { s with history := h }) hp hr
      rcases stepLegal_recordsAfter s with hrec | ⟨t, hnil, ht⟩
      · exact .inl (hrec.of_eq hstep)
      · exact .inr ⟨t, hnil, fun h => (hstep h).trans (ht h)⟩
    | false => exact .inl ⟨.fault .badState, fun _ => (if_neg (not_not.2 hp)).trans (if_neg (Bool.eq_false_iff.1 hr))⟩
  · exact .inl ⟨.refused .illegalParameters, fun _ => if_pos hp⟩

/-- Settles O54: a step gives one outcome and the same events whatever the history, and a reset gives one state. -/
theorem historyIsNeverRead : Obligations.HistoryIsNeverRead := by
  intro s h
  rcases step_recordsAfter s with ⟨r, hr⟩ | ⟨t₀, hnil, ht₀⟩
  · have hs : step s = mapNext (State.withPast s.history false) r := hr s.history
    rw [hs, hr h]
    cases r with
    | next t₀ =>
      refine ⟨fun t ht => .inl ⟨t₀.history, ?_⟩, nofun, nofun⟩
      obtain rfl := Host.Outcome.next.inj ht
      exact ⟨rfl, rfl⟩
    | fault f => exact ⟨nofun, fun _ => id, nofun⟩
    | refused f => exact ⟨nofun, nofun, fun _ => id⟩
  · have hs : step s = .next t₀ := ht₀ s.history
    rw [hs, ht₀ h]
    refine ⟨fun t ht => .inr ?_, fun _ => id, fun _ => id⟩
    obtain rfl := Host.Outcome.next.inj ht
    exact ⟨hnil, rfl⟩

end Sys2Proof.Machine
end

section
/-! SUPPORT. Acceptance (spec/41_session_fsm.md R141, R142): each session or typed operation past its argument checks
latches its plan, what a latched plan makes of the session, and the statements about accepted and rejected requests. -/

namespace Sys2Proof.Machine

open Config (Params)

/-! ### Pure codec operations (spec/40_codec.md R100) -/

/-- An operation that polls is no pure codec operation. -/
theorem Op.afterReady_not_pureCodec {o : Op} (h : o.afterReady.isSome = true) : o.pureCodec = false := by
  revert h; cases o <;> decide

/-- Settles O22: of the ways acceptance can end, a pure codec operation has the rejection and the two ways to finish. -/
theorem pureCodecOperationsTouchOnlyTheResult : Obligations.PureCodecOperationsTouchOnlyTheResult := by
  intro i s hp hq
  obtain ⟨t, ht, hacc⟩ := exec_accepted i hq
  have hother : i.op.pureCodec ≠ false := fun h => Bool.false_ne_true (h.symm.trans hp)
  refine ⟨t, ht, ?_, hacc.op_eq, ?_, hacc.envKept⟩
  · cases hacc with
    | rejected e _ _ hf => exact .inr hf
    | finished | finishedBytes => exact .inl rfl
    | unsendable => exact .inr rfl
    | polls p h => exact absurd (Op.afterReady_not_pureCodec h) hother
    | sends p P h => exact absurd (Op.sends_not_pureCodec h) hother
  · cases hacc with
    | rejected | finished | finishedBytes => exact ⟨rfl, rfl, rfl, rfl, rfl, Memory.empty_nil, Memory.empty_nil⟩
    | unsendable p x _ h => exact absurd h hother
    | polls p h => exact absurd (Op.afterReady_not_pureCodec h) hother
    | sends p P h => exact absurd (Op.sends_not_pureCodec h) hother

/-! ### Plans (spec/41_session_fsm.md R142) -/

section
variable {s : State} (hq : s.st.quiescent = true)
include hq

theorem exec_waitReady (T : Word) :
    exec (.waitReady T) s =
      latchPlan { payload := none, expLen := 0, timeout := T } (s.clearForAccept Op.waitReady.code) :=
  accept_body (d := none) (n := none) hq (Nat.zero_le _) (Nat.zero_le _)

theorem exec_sendCommand {data : List Byte} (T : Word) (hd : data.length ≤ s.cfg.rxCap) :
    exec (.sendCommand data T) s =
      latchPlan { payload := some data, expLen := 0, timeout := T } (s.clearForAccept Op.sendCommand.code) :=
  accept_body (d := some data) (n := none) hq hd (Nat.zero_le _)

theorem exec_transceive {data : List Byte} {n : Half} (T : Word) (hd : data.length ≤ s.cfg.rxCap)
    (hn : n.toNat ≤ s.cfg.rxMaxFrame) :
    exec (.transceive data n T) s =
      latchPlan { payload := some data, expLen := n.toNat, timeout := T } (s.clearForAccept Op.transceive.code) :=
  accept_body (d := some data) (n := some n) hq hd hn

theorem exec_readResponse {n : Half} (T : Word) (hn : n.toNat ≤ s.cfg.rxMaxFrame) :
    exec (.readResponse n T) s =
      latchPlan { payload := none, expLen := n.toNat, timeout := T } (s.clearForAccept Op.readResponse.code) :=
  accept_body (d := none) (n := some n) hq (Nat.zero_le _) hn

theorem exec_getFirmwareVersion (T : Word) :
    exec (.getFirmwareVersion T) s =
      latchPlan { payload := some [0x02], expLen := 13, timeout := T } (s.clearForAccept Op.getFirmwareVersion.code) :=
  accept_body (d := none) (n := none) hq (Nat.zero_le _) (Nat.zero_le _)

theorem exec_configureSam :
    exec .configureSam s =
      latchPlan { payload := some s.cfg.samPayload.toList, expLen := 9, timeout := s.cfg.defaultTimeout }
        (s.clearForAccept Op.configureSam.code) :=
  accept_body (d := none) (n := none) hq (Nat.zero_le _) (Nat.zero_le _)

theorem exec_startPassiveDetection (brty : Byte) :
    exec (.startPassiveDetection brty) s =
      latchPlan { payload := some [s.cfg.cmdInlist, 0x01, brty], expLen := 0, timeout := s.cfg.defaultTimeout }
        (s.clearForAccept Op.startPassiveDetection.code) :=
  accept_body (d := none) (n := none) hq (Nat.zero_le _) (Nat.zero_le _)

theorem exec_readDetectedTarget (T : Word) :
    exec (.readDetectedTarget T) s =
      latchPlan { payload := none, expLen := 20, timeout := T } (s.clearForAccept Op.readDetectedTarget.code) :=
  accept_body (d := none) (n := none) hq (Nat.zero_le _) (Nat.zero_le _)

end

/-! ### What a latched plan makes of the session -/

section
variable {i : Instr} {s : State} {p : Plan} (h : exec i s = latchPlan p (s.clearForAccept i.op.code))
include h

theorem acceptedToPoll_of_latchPlan (hp : p.payload = none) : AcceptedToPoll i s p.expLen p.timeout :=
  have hnone : Memory.Holds [] [] := (Memory.holds_nil_iff []).2 Memory.empty_nil
  ⟨_, h.trans (latchPlan_none _ hp), rfl, ⟨rfl, rfl, rfl, rfl⟩, ⟨rfl, rfl, rfl, hnone⟩, rfl, rfl, rfl, rfl,
    Memory.empty_nil, rfl, Memory.empty_nil, ⟨rfl, rfl, rfl, rfl, rfl, rfl⟩⟩

variable {P : List Byte} (hP : p.payload = some P)
include hP

theorem acceptedToSend_of_latchPlan (h0 : 1 ≤ P.length) (h1 : P.length ≤ s.cfg.maxPayload) :
    AcceptedToSend i s P p.expLen p.timeout :=
  have hnone : Memory.Holds [] [] := (Memory.holds_nil_iff []).2 Memory.empty_nil
  ⟨_, h.trans (latchPlan_ok _ hP h0 h1), rfl, ⟨rfl, rfl, rfl, rfl⟩, ⟨rfl, rfl, rfl, hnone⟩, rfl, rfl, rfl, rfl,
    Memory.empty_nil, rfl, Memory.holds_setAll_nil _, ⟨rfl, rfl, rfl, rfl, rfl, rfl⟩⟩

/-- A payload error finds the budget and the expected length already latched (log 13). -/
theorem rejected_of_latchPlan {x : ArgReason} (hq : s.st.quiescent = true)
    (hx : encodeFrame s.cfg.maxPayload P = .error x) :
    ∃ t, exec i s = .next t ∧ t.Reports .failed 0x01 (Err.invalidArgument x).reason .idle ∧ t.timeout = p.timeout ∧
      t.expLen = p.expLen ∧ t.txlen = 0 ∧ EnvKept s t :=
  ⟨_, h.trans (latchPlan_error _ hP hx), ⟨rfl, rfl, rfl, if_pos hq⟩, rfl, rfl, rfl, ⟨rfl, rfl, rfl, rfl, rfl, rfl⟩⟩

end

/-! ### Accepted requests -/

/-- The payload of an operation in contract can be sent. -/
theorem sendCommand_wellFormed {p : Params} {data : List Byte} {T : Word}
    (h : (Instr.sendCommand data T).wellFormed p = true) :
    data.length ≤ p.rxCap ∧ 1 ≤ data.length ∧ data.length ≤ p.maxPayload := by
  simp only [Instr.wellFormed, dataFits, payloadPresent, payloadFits, Bool.and_eq_true, decide_eq_true_eq,
    Bool.not_eq_true', List.isEmpty_eq_false_iff, ← List.length_pos_iff] at h
  obtain ⟨⟨hd, h0⟩, h1⟩ := h
  exact ⟨hd, h0, h1⟩

theorem transceive_wellFormed {p : Params} {data : List Byte} {n : Half} {T : Word}
    (h : (Instr.transceive data n T).wellFormed p = true) :
    data.length ≤ p.rxCap ∧ n.toNat ≤ p.rxMaxFrame ∧ 1 ≤ data.length ∧ data.length ≤ p.maxPayload := by
  simp only [Instr.wellFormed, dataFits, expLenFits, payloadPresent, payloadFits, Bool.and_eq_true,
    decide_eq_true_eq, Bool.not_eq_true', List.isEmpty_eq_false_iff, ← List.length_pos_iff] at h
  obtain ⟨⟨⟨hd, hn⟩, h0⟩, h1⟩ := h
  exact ⟨hd, hn, h0, h1⟩

/-- Settles O23: each operation latches its plan, and its payload can be encoded. -/
theorem sendingOperationsAreAccepted : Obligations.SendingOperationsAreAccepted := by
  intro s hq hl
  refine ⟨fun data T hwf => ?_, fun data n T hwf => ?_, fun T => ?_, fun h3 => ?_, fun brty h3 => ?_⟩
  · obtain ⟨hd, h0, h1⟩ := sendCommand_wellFormed hwf
    exact acceptedToSend_of_latchPlan (exec_sendCommand hq T hd) rfl h0 h1
  · obtain ⟨hd, hn, h0, h1⟩ := transceive_wellFormed hwf
    exact acceptedToSend_of_latchPlan (exec_transceive hq T hd hn) rfl h0 h1
  · exact acceptedToSend_of_latchPlan (exec_getFirmwareVersion hq T) rfl (Nat.le_refl 1) hl.1
  · have hlen : s.cfg.samPayload.toList.length = 3 := Vector.length_toList
    exact acceptedToSend_of_latchPlan (exec_configureSam hq) rfl (by omega) (by omega)
  · exact acceptedToSend_of_latchPlan (exec_startPassiveDetection hq brty) rfl (Nat.le_add_left 1 2) h3

/-- Settles O24: each operation latches its plan, which has no payload. -/
theorem pollingOperationsAreAccepted : Obligations.PollingOperationsAreAccepted := fun _ hq =>
  ⟨fun T => acceptedToPoll_of_latchPlan (exec_waitReady hq T) rfl,
    fun _ T hn => acceptedToPoll_of_latchPlan (exec_readResponse hq T hn) rfl,
    fun T => acceptedToPoll_of_latchPlan (exec_readDetectedTarget hq T) rfl⟩

/-! ### Rejected requests (spec/60_exceptions.md R234) -/

/-- Settles O25: the encoder rejects the payload of the latched plan, or acceptance the expected length before that. -/
theorem sessionArgumentErrors : Obligations.SessionArgumentErrors := by
  intro s hq
  refine ⟨fun T => ?_, fun data T h1 hd => ?_, fun n T hn => ?_, fun data n T h1 hd hn => ?_, fun data n T hd hn => ?_,
    fun n T hn => ?_, fun h3 => ⟨?_, fun brty => ?_⟩⟩
  · obtain ⟨t, ht, hrep, hT, -, htx, henv⟩ :=
      rejected_of_latchPlan (exec_sendCommand (data := []) hq T (Nat.zero_le _)) rfl hq (encodeFrame_empty rfl)
    exact ⟨t, ht, hrep, hT, htx, henv⟩
  · obtain ⟨t, ht, hrep, hT, -, -, henv⟩ :=
      rejected_of_latchPlan (exec_sendCommand hq T hd) rfl hq (encodeFrame_tooLong h1)
    exact ⟨t, ht, hrep, hT, henv⟩
  · exact rejected_of_latchPlan (exec_transceive (data := []) hq T (Nat.zero_le _) hn) rfl hq (encodeFrame_empty rfl)
  · obtain ⟨t, ht, hrep, hT, hexp, -, henv⟩ :=
      rejected_of_latchPlan (exec_transceive hq T hd hn) rfl hq (encodeFrame_tooLong h1)
    exact ⟨t, ht, hrep, hT, hexp, henv⟩
  · obtain ⟨t, ht, -, hrep, -, hplan, henv⟩ := completesAtOnce_of_raise (i := .transceive data n T) hq
      (accept_expLenTooLarge (d := some data) hq hd hn) rfl
    exact ⟨t, ht, hrep, hplan, henv⟩
  · obtain ⟨t, ht, -, hrep, -, hplan, henv⟩ := completesAtOnce_of_raise (i := .readResponse n T) hq
      (accept_expLenTooLarge (d := none) hq (Nat.zero_le _) hn) rfl
    exact ⟨t, ht, hrep, hplan, henv⟩
  · have hlen : s.cfg.samPayload.toList.length = 3 := Vector.length_toList
    obtain ⟨t, ht, hrep, -, -, -, henv⟩ :=
      rejected_of_latchPlan (exec_configureSam hq) rfl hq (encodeFrame_tooLong (by omega))
    exact ⟨t, ht, hrep, henv⟩
  · obtain ⟨t, ht, hrep, -, -, -, henv⟩ :=
      rejected_of_latchPlan (exec_startPassiveDetection hq brty) rfl hq (encodeFrame_tooLong h3)
    exact ⟨t, ht, hrep, henv⟩

/-- Every operation is accepted through the same argument checks, of the fields its row reads. -/
theorem exec_instr_eq_accept (o : Op) (r : Request) : ∃ body, ∀ s,
    exec (o.instr r) s = accept o (if o.readsData then some r.data else none)
      (if o.readsExpLen then some r.expLen else none) body s := by
  cases o with
  | encodeCommand => exact ⟨_, execEncodeCommand.eq_def r.data⟩
  | genChecksum => exact ⟨_, execGenChecksum.eq_def r.data⟩
  | verifyAck => exact ⟨_, execVerifyAck.eq_def r.data⟩
  | decodeResponse => exact ⟨_, execDecodeResponse.eq_def r.data r.expLen⟩
  | checkFrame => exact ⟨_, execCheckFrame.eq_def r.data r.tfi⟩
  | waitReady => exact ⟨_, execWaitReady.eq_def r.timeout⟩
  | sendCommand => exact ⟨_, execSendCommand.eq_def r.data r.timeout⟩
  | transceive => exact ⟨_, execTransceive.eq_def r.data r.expLen r.timeout⟩
  | readResponse => exact ⟨_, execReadResponse.eq_def r.expLen r.timeout⟩
  | getFirmwareVersion => exact ⟨_, execGetFirmwareVersion.eq_def r.timeout⟩
  | configureSam => exact ⟨_, execConfigureSam.eq_def⟩
  | startPassiveDetection => exact ⟨_, execStartPassiveDetection.eq_def r.brty⟩
  | readDetectedTarget => exact ⟨_, execReadDetectedTarget.eq_def r.timeout⟩

/-- Settles O27: a code of no row is no operation, and every operation of the table has its data checked first. -/
theorem argumentChecksComeInOrder : Obligations.ArgumentChecksComeInOrder := by
  intro r s hq
  refine ⟨fun hn => ?_, fun o ho hreads hd => ?_, fun o ho hreads hd hn => ?_⟩
  · exact ⟨_, (presentRequest_of_reserved hn s).trans (acceptReserved_quiescent hq), rfl, rfl, rfl, if_pos hq⟩
  · obtain ⟨body, hbody⟩ := exec_instr_eq_accept o r
    rw [presentRequest_of_ok (decode_of_code ho), hbody, hreads, if_pos rfl, accept_dataTooLong hq hd]
    exact ⟨_, rfl, rfl, rfl, rfl, if_pos hq⟩
  · obtain ⟨body, hbody⟩ := exec_instr_eq_accept o r
    have hfits : ((if o.readsData then some r.data else none).getD []).length ≤ s.cfg.rxCap := by
      cases hr : o.readsData with
      | true => exact hd hr
      | false => exact Nat.zero_le _
    rw [presentRequest_of_ok (decode_of_code ho), hbody, if_pos hreads, accept_expLenTooLarge hq hfits hn]
    exact ⟨_, rfl, rfl, rfl, rfl, if_pos hq⟩

/-! ### Argument errors exactly out of contract -/

/-- `r` is a next state that reports `InvalidArgument` exactly when `fine` does not hold. -/
def Judged (fine : Bool) (r : Result) : Prop :=
  ∃ t, r = .next t ∧ (t.status = 0x01 ↔ fine = false) ∧ (fine = false → t.Reports .failed 0x01 t.reason .idle)

theorem judged_argument {c : State} (x : ArgReason) (hq : c.st.quiescent = true) :
    Judged false (.next (c.raise (.invalidArgument x))) :=
  ⟨_, rfl, iff_of_true rfl rfl, fun _ => ⟨rfl, rfl, rfl, if_pos hq⟩⟩

/-- Any other status does for an operation in contract. -/
theorem judged_fine {r : Result} {t : State} {b : Byte} (h : r = .next t) (hs : t.status = b) (hb : b ≠ 0x01) :
    Judged true r :=
  ⟨t, h, iff_of_false (hs ▸ hb) (Ne.symm Bool.false_ne_true), nofun⟩

theorem judged_finish {c : State} {r : Results} (h : (r.bytes.getD []).length ≤ c.cfg.rxMaxFrame) :
    Judged true (c.finish .ok r) := by
  have hok : Success.ok.status ≠ 0x01 := by decide
  cases hb : r.bytes with
  | none => exact judged_fine (finish_none c hb) rfl hok
  | some bs => rw [hb] at h; exact judged_fine (finish_bytes c hb h) rfl hok

theorem judged_decodeError (c : State) (x : DecodeReason) : Judged true (.next (c.raise (.decodeError x))) :=
  judged_fine (b := 0x06) rfl rfl (by decide)

/-- What the encoder checks of a payload. -/
theorem payloadFine_cases (p : Params) (P : List Byte) :
    ((payloadPresent P && payloadFits p P) = false ∧ ∃ x, encodeFrame p.maxPayload P = .error x) ∨
      ((payloadPresent P && payloadFits p P) = true ∧ 1 ≤ P.length ∧ P.length ≤ p.maxPayload ∧
        encodeFrame p.maxPayload P = .ok (frameOf tfiCommand P)) := by
  rcases encodeFrame_cases p.maxPayload P with ⟨h0, he⟩ | ⟨h0, h1, he⟩ | ⟨h0, h1, he⟩
  · exact .inl ⟨by simp [payloadPresent, List.eq_nil_of_length_eq_zero h0], _, he⟩
  · exact .inl ⟨by simp [payloadFits, h1], _, he⟩
  · exact .inr ⟨by simpa [payloadPresent, payloadFits, h1] using List.ne_nil_of_length_pos h0, h0, h1, he⟩

section
variable {c : State} {p : Plan} (hc : c.status = statusNone)
include hc

theorem judged_latchPlan_none (hP : p.payload = none) : Judged true (latchPlan p c) :=
  judged_fine (latchPlan_none c hP) hc (by decide)

/-- The payload of a plan is judged by the encoder. -/
theorem judged_latchPlan {P : List Byte} (hq : c.st.quiescent = true) (hP : p.payload = some P) :
    Judged (payloadPresent P && payloadFits c.cfg P) (latchPlan p c) := by
  rcases payloadFine_cases c.cfg P with ⟨hfine, x, he⟩ | ⟨hfine, h0, h1, -⟩ <;> rw [hfine]
  · rw [latchPlan_error c hP he]
    exact judged_argument (c := c.latchBudget p) x hq
  · exact judged_fine (latchPlan_ok c hP h0 h1) hc (by decide)

end

/-- The argument checks of acceptance judge the fields that are read, and the body the rest. -/
theorem judged_accept {o : Op} {d : Option (List Byte)} {n : Option Half} {body : State → Result} {s : State}
    {fine own : Bool} (hq : s.st.quiescent = true)
    (hfine : fine = (dataFits s.cfg (d.getD []) && expLenFits s.cfg (n.getD 0) && own))
    (hbody : (d.getD []).length ≤ s.cfg.rxCap → (n.getD 0).toNat ≤ s.cfg.rxMaxFrame →
      Judged own (body (s.clearForAccept o.code))) :
    Judged fine (accept o d n body s) := by
  by_cases hd : (d.getD []).length ≤ s.cfg.rxCap
  · by_cases hn : (n.getD 0).toNat ≤ s.cfg.rxMaxFrame
    · rw [dataFits, expLenFits, decide_eq_true hd, decide_eq_true hn] at hfine
      rw [hfine, accept_body hq hd hn]
      exact hbody hd hn
    · rw [expLenFits, decide_eq_false hn, Bool.and_false, Bool.false_and] at hfine
      cases n with
      | none => exact absurd (Nat.zero_le _) hn
      | some n =>
        have hlong : s.cfg.rxMaxFrame < n.toNat := not_le.1 hn
        rw [hfine, accept_expLenTooLarge hq hd hlong]
        exact judged_argument (c := s.clearForAccept o.code) _ hq
  · rw [dataFits, decide_eq_false hd, Bool.false_and, Bool.false_and] at hfine
    cases d with
    | none => exact absurd (Nat.zero_le _) hd
    | some d =>
      have hlong : s.cfg.rxCap < d.length := not_le.1 hd
      rw [hfine, accept_dataTooLong hq hlong]
      exact judged_argument (c := s.clearForAccept o.code) _ hq

@[simp] theorem dataFits_nil (p : Params) : dataFits p [] = true := decide_eq_true (Nat.zero_le _)

@[simp] theorem expLenFits_zero (p : Params) : expLenFits p 0#16 = true := decide_eq_true (Nat.zero_le _)

/-- Every operation reports `InvalidArgument` exactly when it is out of contract. -/
theorem exec_judged (i : Instr) {s : State} (hq : s.st.quiescent = true) :
    Judged (i.wellFormed s.cfg) (exec i s) := by
  have hroom := Params.room s.cfg
  have hargument : ∀ o x, Judged false (.next ((s.clearForAccept o).raise (.invalidArgument x))) := fun o x =>
    judged_argument (c := s.clearForAccept o) x hq
  cases i with
  | encodeCommand data =>
    simp only [exec, execEncodeCommand]
    refine judged_accept (own := payloadPresent data && payloadFits s.cfg data) hq
      (by simp [Instr.wellFormed, Bool.and_assoc]) fun _ _ => ?_
    rcases payloadFine_cases s.cfg data with ⟨hfine, x, he⟩ | ⟨hfine, -, h1, he⟩ <;>
      simp only [hfine, he, State.clearForAccept_cfg]
    · exact hargument _ x
    · exact judged_finish (show (frameOf tfiCommand data).length ≤ s.cfg.rxMaxFrame by rw [frameOf_length]; omega)
  | genChecksum data =>
    simp only [exec, execGenChecksum]
    refine judged_accept (own := true) hq (by simp [Instr.wellFormed]) fun _ _ => ?_
    exact judged_finish (show 1 ≤ s.cfg.rxMaxFrame by omega)
  | verifyAck data =>
    simp only [exec, execVerifyAck]
    refine judged_accept (own := ackLengthRight data) hq (by simp [Instr.wellFormed]) fun _ _ => ?_
    by_cases h7 : data.length = ackReadLength
    · rw [if_neg (not_not.2 h7), show ackLengthRight data = true from beq_iff_eq.2 h7]
      exact judged_finish (Nat.zero_le _)
    · rw [if_pos h7, show ackLengthRight data = false from beq_eq_false_iff_ne.2 h7]
      exact hargument _ _
  | decodeResponse data n =>
    simp only [exec, execDecodeResponse]
    refine judged_accept (own := true) hq (by simp [Instr.wellFormed]) fun _ hn => ?_
    rcases unframeResponse_cases s.cfg.verifyRspChecksum data n.toNat with
      ⟨-, he⟩ | ⟨hlen, -, he⟩ | ⟨-, -, x, -, he⟩ <;> simp only [he, State.clearForAccept_cfg]
    · exact judged_decodeError _ _
    · refine judged_finish (show (data.drop 1).length ≤ s.cfg.rxMaxFrame from ?_)
      rw [List.length_drop, hlen]
      exact hn
    · exact judged_decodeError _ _
  | checkFrame data tfi =>
    simp only [exec, execCheckFrame]
    refine judged_accept (own := true) hq (by simp [Instr.wellFormed]) fun _ _ => ?_
    cases frameCheck data tfi with
    | ok => exact judged_finish (Nat.zero_le _)
    | error x => exact judged_decodeError _ x
  | waitReady | readResponse | readDetectedTarget =>
    exact judged_accept (own := true) hq (by simp [Instr.wellFormed]) fun _ _ => judged_latchPlan_none rfl rfl
  | sendCommand data | transceive data =>
    exact judged_accept (own := payloadPresent data && payloadFits s.cfg data) hq
      (by simp [Instr.wellFormed, Bool.and_assoc]) fun _ _ => judged_latchPlan rfl hq rfl
  | getFirmwareVersion =>
    exact judged_accept (own := payloadPresent [firmwareCommand] && payloadFits s.cfg [firmwareCommand]) hq
      (by simp [Instr.wellFormed, payloadPresent, payloadFits]) fun _ _ => judged_latchPlan rfl hq rfl
  | configureSam =>
    refine judged_accept (own := payloadPresent s.cfg.samPayload.toList && payloadFits s.cfg s.cfg.samPayload.toList)
      hq ?_ fun _ _ => judged_latchPlan rfl hq rfl
    simp [Instr.wellFormed, payloadPresent, payloadFits]
  | startPassiveDetection brty =>
    exact judged_accept
      (own := payloadPresent (detectionPayload s.cfg brty) && payloadFits s.cfg (detectionPayload s.cfg brty)) hq
      (by simp [Instr.wellFormed, payloadPresent, payloadFits, detectionPayload]) fun _ _ => judged_latchPlan rfl hq rfl

/-- Settles O26: acceptance changes nothing outside the session, and `exec_judged` says what it reports. -/
theorem argumentErrorsExactlyOutOfContract : Obligations.ArgumentErrorsExactlyOutOfContract := by
  intro i s hq
  obtain ⟨t, ht, hacc⟩ := exec_accepted i hq
  obtain ⟨u, hu, hstatus, hreports⟩ := exec_judged i hq
  obtain rfl := Host.Outcome.next.inj (ht.symm.trans hu)
  exact ⟨t, ht, hacc.envKept, hstatus, hreports⟩

end Sys2Proof.Machine
end

section
/-! SUPPORT. The step in `AwaitRsp` of the operations that hand a response back or check its marker
(spec/41_session_fsm.md R149, R150, spec/42_typed_operations.md R195), and the statements about it. -/

namespace Sys2Proof.Machine

/-- Settles O33: a failed read, a failed check, or the response without its first byte as the result. -/
theorem responseStepFollowsItsRule : Obligations.ResponseStepFollowsItsRule := by
  intro s a rest k hinv hs ha t
  obtain ⟨hfits, -⟩ := (regsLegal_iff s).1 hinv.regs
  obtain ⟨-, hres⟩ := hinv.result_empty (by rw [hs]; rfl)
  obtain ⟨herr, hread⟩ := stepResponse_eq hfits ha
  rw [← sessionStep_response hinv.op hs] at herr hread
  refine ⟨fun h => ?_, fun h => ha.answer.resolve_left h, fun R h => ⟨_, rxStored_setAll s R, fun x hv hx => ?_,
    fun hacc ho => ⟨_, Memory.holds_setAll_nil (R.drop 1), ?_⟩⟩⟩
  · exact (herr h).trans (congrArg _ (raise_busy _ hs rfl))
  · obtain ⟨-, -, hbad⟩ := hread R h
    exact (hbad x hv hx).trans (congrArg _ (raise_busy _ hs rfl))
  · obtain ⟨hlen, hgood, -⟩ := hread R h
    have hd : (R.drop 1).length = s.expLen := by rw [List.length_drop, hlen, Nat.add_sub_cancel]
    let v := t.storeRead (Memory.setAll s.rxbuf 0 R) (s.expLen + 1)
    rw [hgood hacc, interpret_raw (u := v) ho, finish_bytes_fresh (s := v) hres rfl (hd.trans_le hfits), hd]
    rfl

/-- Settles O35: the marker byte decides, and nothing else of the response is read. -/
theorem samResponseIsInterpreted : Obligations.SamResponseIsInterpreted := by
  intro s R rest k hinv hs ho ha hacc d t
  obtain ⟨hl, hstep⟩ := hinv.sessionStep_typed (o := .configureSam) hs ho rfl ha hacc
  let v := t.storeRead (Memory.setAll s.rxbuf 0 R) 10
  replace hstep : sessionStep s = interpretSam d v := hstep.trans (interpret_sam ho)
  refine ⟨hl, _, rxStored_setAll s R, fun hmarker => ?_, fun hmarker => ?_⟩
  · exact hstep.trans
      ((interpretSam_rejected (u := v) hl hmarker).trans (congrArg _ (raise_busy (s := v) _ hs rfl)))
  · exact hstep.trans ((interpretSam_accepted (u := v) hl hmarker).trans (finish_none v rfl))

end Sys2Proof.Machine
end

section
/-! SUPPORT. Whole exchanges with a device that is ready at once (spec/41_session_fsm.md R155 to R158,
spec/42_typed_operations.md R190 to R205): the steps up to the response one after the other, and the statements. -/

namespace Sys2Proof.Machine

/-! ### A session on its way -/

/-- `s` in `st`, at the start of a poll loop's budget, with the events `evs` recorded and the answers `rest` to come. -/
def State.movedTo (s : State) (st : St) (evs : List Event) (rest : List PortAnswer) : State :=
  { s with st := st, elapsed := 0, history := s.history ++ evs, transport := rest }

@[simp] theorem State.movedTo_movedTo (s : State) (st st' : St) (evs evs' : List Event) (rest rest' : List PortAnswer) :
    (s.movedTo st evs rest).movedTo st' evs' rest' = s.movedTo st' (evs ++ evs') rest' := by
  simp [State.movedTo]

@[simp] theorem State.storeRead_movedTo (s : State) (m : Memory) (n : Nat) (st : St) (evs : List Event)
    (rest : List PortAnswer) : (s.storeRead m n).movedTo st evs rest = (s.movedTo st evs rest).storeRead m n := rfl

/-- The invariant holds all along a run. -/
theorem State.Inv.of_runs {s t : State} {k : Nat} (h : s.Inv) (hr : runs k s = .next t) : t.Inv := by
  induction k generalizing s with
  | zero => exact Host.Outcome.next.inj hr ▸ h
  | succ k ih =>
    obtain ⟨u, hu, hrest⟩ := step_of_runs_succ hr
    exact ih (everyStepKeepsTheInvariant s u h hu) hrest

/-- A run of a session the caller leaves alone goes on with a session step. -/
theorem State.Inv.runs_sessionStep {s t u : State} {k : Nat} (h : s.Inv) (hr : runs k s = .next t)
    (hc : t.caller = []) (hu : sessionStep t = .next u) : runs (k + 1) s = .next u :=
  have ht := h.of_runs hr
  runs_snoc hr ((step_session ht.params ht.regs hc).trans hu)

/-- The event of a poll that finds the device ready. -/
abbrev readyEvent (p : Config.Params) : Event := .read p.peerAddr 1 (.readOk [readyByte])

section
variable {s : State} {rest : List PortAnswer} (h : s.Inv)
include h

/-- The frame is written. -/
theorem State.Inv.sessionStep_write {P : List Byte} (hs : s.st = .sending)
    (hP : Memory.Holds s.txbuf (frameOf tfiCommand P)) (ht : s.transport = .writeOk :: rest) :
    sessionStep s =
      .next (s.movedTo .awaitReadyAck [.write s.cfg.peerAddr (frameOf tfiCommand P) .writeOk] rest) := by
  rw [sessionStep_sending h.op hs, stepSending_eq h.memRead_txbuf (writeAnswered_script ht), if_neg (by decide),
    Memory.map_snd_of_holds h.tx.1 hP]
  rfl

/-- The device is ready for its ack. -/
theorem State.Inv.sessionStep_readyAck (hs : s.st = .awaitReadyAck) (h0 : s.elapsed = 0)
    (ht : s.transport = .readOk [readyByte] :: rest) :
    sessionStep s = .next (s.movedTo .awaitAck [readyEvent s.cfg] rest) := by
  obtain ⟨-, -, hready, -⟩ := pollStepFollowsItsRule s _ rest _ (.inl hs) h.op (readAnswered_script ht rfl)
  rw [hready rfl hs, State.movedTo, ← h0]
  rfl

/-- The device is ready for its response. -/
theorem State.Inv.sessionStep_readyRsp (hs : s.st = .awaitReadyRsp) (h0 : s.elapsed = 0) (ho : s.op ≠ 0x10)
    (ht : s.transport = .readOk [readyByte] :: rest) :
    sessionStep s = .next (s.movedTo .awaitRsp [readyEvent s.cfg] rest) := by
  obtain ⟨-, -, -, -, hready, -⟩ := pollStepFollowsItsRule s _ rest _ (.inr hs) h.op (readAnswered_script ht rfl)
  rw [hready rfl hs ho, State.movedTo, ← h0]
  rfl

/-- A good ack ends the exchange of an operation that only sends. -/
theorem State.Inv.sessionStep_acked {b : Byte} (hs : s.st = .awaitAck) (h0 : s.elapsed = 0)
    (ho : s.op = 0x11 ∨ s.op = 0x22) (ht : s.transport = goodAck b :: rest) :
    ∃ m, RxStored s (b :: ackFrame) m ∧
      sessionStep s =
        .next (((s.movedTo .awaitAck [.read s.cfg.peerAddr 7 (goodAck b)] rest).storeRead m 7).finishWord .ok {}) := by
  obtain ⟨-, -, hread⟩ := ackStepFollowsItsRule s _ rest _ hs h.op (readAnswered_script ht rfl)
  obtain ⟨m, hm, -, hgood⟩ := hread _ rfl
  refine ⟨m, hm, (hgood rfl).1 ho |>.trans ?_⟩
  rw [State.movedTo, ← h0]
  rfl

/-- A good ack lets the other operations poll for their response. -/
theorem State.Inv.sessionStep_ackedToPoll {b : Byte} (hs : s.st = .awaitAck) (h1 : s.op ≠ 0x11) (h2 : s.op ≠ 0x22)
    (ht : s.transport = goodAck b :: rest) :
    ∃ m, sessionStep s =
      .next ((s.movedTo .awaitReadyRsp [.read s.cfg.peerAddr 7 (goodAck b)] rest).storeRead m 7) := by
  obtain ⟨-, -, hread⟩ := ackStepFollowsItsRule s _ rest _ hs h.op (readAnswered_script ht rfl)
  obtain ⟨m, -, -, hgood⟩ := hread _ rfl
  exact ⟨m, (hgood rfl).2 h1 h2⟩

/-! ### The steps up to the response -/

section
variable {P : List Byte} {b : Byte} (hs : s.st = .sending) (hc : s.caller = [])
  (hP : Memory.Holds s.txbuf (frameOf tfiCommand P))
include hs hc hP

/-- The command is written, and the device is ready for its ack. -/
theorem State.Inv.runs_awaitAck (ht : s.transport = [.writeOk, .readOk [readyByte]] ++ rest) :
    runs 2 s =
      .next (s.movedTo .awaitAck
        [.write s.cfg.peerAddr (frameOf tfiCommand P) .writeOk, readyEvent s.cfg] rest) := by
  have hwrite := h.runs_sessionStep (runs_zero s) hc (h.sessionStep_write hs hP ht)
  have hready := h.runs_sessionStep hwrite hc ((h.of_runs hwrite).sessionStep_readyAck rfl rfl rfl)
  rwa [State.movedTo_movedTo] at hready

/-- An operation that only sends is done with the ack. -/
theorem State.Inv.runs_acked (ho : s.op = 0x11 ∨ s.op = 0x22)
    (ht : s.transport = [.writeOk, .readOk [readyByte], goodAck b] ++ rest) :
    ∃ m, RxStored s (b :: ackFrame) m ∧
      runs 3 s =
        .next (((s.movedTo .awaitAck (sendEvents s.cfg P b) rest).storeRead m 7).finishWord .ok {}) := by
  have hrun := h.runs_awaitAck hs hc hP (rest := goodAck b :: rest) ht
  obtain ⟨m, hm, hack⟩ := (h.of_runs hrun).sessionStep_acked rfl rfl ho rfl
  rw [State.movedTo_movedTo] at hack
  exact ⟨m, hm, h.runs_sessionStep hrun hc hack⟩

/-- Any other operation that sends is about to read its response. -/
theorem State.Inv.runs_awaitRsp {R : List Byte} (ho : s.op ≠ 0x10) (h1 : s.op ≠ 0x11) (h2 : s.op ≠ 0x22)
    (ht : s.transport = [.writeOk, .readOk [readyByte], goodAck b, .readOk [readyByte], .readOk R] ++ rest) :
    ∃ m, runs 4 s =
      .next ((s.movedTo .awaitRsp (sendEvents s.cfg P b ++ [readyEvent s.cfg]) (.readOk R :: rest)).storeRead m 7) := by
  have hrun := h.runs_awaitAck hs hc hP (rest := goodAck b :: .readOk [readyByte] :: .readOk R :: rest) ht
  obtain ⟨m, hack⟩ := (h.of_runs hrun).sessionStep_ackedToPoll rfl h1 h2 rfl
  rw [State.movedTo_movedTo] at hack
  have hpoll := h.runs_sessionStep hrun hc hack
  have hready := (h.of_runs hpoll).sessionStep_readyRsp rfl rfl ho rfl
  rw [State.storeRead_movedTo, State.movedTo_movedTo] at hready
  exact ⟨m, h.runs_sessionStep hpoll hc hready⟩

end

end

/-! ### From acceptance to the response -/

/-- Acceptance in any quiescent state with legal parameters establishes the invariant. -/
theorem exec_inv {i : Instr} {s t : State} (hq : s.st.quiescent = true) (hl : s.cfg.Legal) (h : exec i s = .next t) :
    t.Inv := by
  obtain ⟨u, hu, hacc⟩ := exec_accepted i hq
  obtain rfl := Host.Outcome.next.inj (hu.symm.trans h)
  exact hacc.inv hq hl

/-- `u` ends an exchange begun in `s` with a success and these results, the events `evs` recorded and the answers `rest`
unread. -/
def State.DoneWith (s : State) (evs : List Event) (rest : List PortAnswer) (word : Word) (bytes : List Byte)
    (u : State) : Prop :=
  u.Reports .done 0x00 0x00 .idle ∧ u.Gives false word bytes ∧ u.transport = rest ∧ u.history = s.history ++ evs

/-- `v` is about to read the response `R` to operation `o`, of `n` bytes and a readiness byte, in an exchange begun in
`s` that recorded the events `evs` before the last poll. -/
structure AwaitsResponse (s : State) (o : Op) (n : Nat) (evs : List Event) (R : List Byte) (rest : List PortAnswer)
    (v : State) : Prop where
  inv : v.Inv
  st : v.st = .awaitRsp
  op : v.op = o.code
  cfg : v.cfg = s.cfg
  expLen : v.expLen = n
  caller : v.caller = []
  transport : v.transport = .readOk R :: rest
  history : v.history = s.history ++ evs ++ [readyEvent s.cfg]

/-- The operations that poll for their response after the ack are neither WAIT_READY nor one that only sends. -/
theorem Op.code_of_pollResponse {o : Op} (h : o.afterAck = some .pollResponse) :
    o.code ≠ 0x10 ∧ o.code ≠ 0x11 ∧ o.code ≠ 0x22 := by
  revert h; cases o <;> decide

/-- WAIT_READY reads no response. -/
theorem Op.code_of_readsResponse {o : Op} (h : o.readsResponse = true) : o.code ≠ 0x10 := by
  revert h; cases o <;> decide

/-- The reads of the last poll and of the response. -/
theorem responseEvents_eq {p : Config.Params} {R : List Byte} {n : Nat} (h : R.length = n + 1) :
    responseEvents p R = [readyEvent p, .read p.peerAddr (n + 1) (.readOk R)] := by
  rw [responseEvents, h]

section
variable {i : Instr} {s : State} {n : Nat} {T : Word} {rest : List PortAnswer} (hq : s.st.quiescent = true)
  (hl : s.cfg.Legal) (hc : s.caller = [])
include hq hl hc

section
variable {P : List Byte} {b : Byte} (h : AcceptedToSend i s P n T)
include h

/-- An accepted operation that only sends is done three steps later. -/
theorem AcceptedToSend.runs_done (ho : i.op.code = 0x11 ∨ i.op.code = 0x22)
    (ht : s.transport = [.writeOk, .readOk [readyByte], goodAck b] ++ rest) :
    ∃ t u, exec i s = .next t ∧ runs 3 t = .next u ∧ s.DoneWith (sendEvents s.cfg P b) rest 0 [] u ∧
      Memory.Holds u.rxbuf (b :: ackFrame) := by
  obtain ⟨t, hexec, hop, ⟨hst, -⟩, ⟨hflag, hword, hlen, hres⟩, -, -, -, -, hrx, -, htx, henv⟩ := h
  obtain ⟨m, ⟨hin, hout⟩, hrun⟩ := (exec_inv hq hl hexec).runs_acked hst (henv.caller.trans hc) htx (hop ▸ ho)
    (henv.transport.trans ht)
  refine ⟨t, _, hexec, hrun, ⟨⟨rfl, rfl, rfl, rfl⟩, ⟨hflag, hword, hlen, hres⟩, rfl, ?_⟩, hin, fun j hj => ?_⟩
  · rw [← henv.history, ← henv.cfg]
    rfl
  · exact (hout j hj).trans (hrx j)

/-- Any other accepted operation that sends is about to read its response four steps later. -/
theorem AcceptedToSend.runs_awaitRsp {R : List Byte} (ho : i.op.afterAck = some .pollResponse)
    (ht : s.transport = [.writeOk, .readOk [readyByte], goodAck b, .readOk [readyByte], .readOk R] ++ rest) :
    ∃ t v, exec i s = .next t ∧ runs 4 t = .next v ∧
      AwaitsResponse s i.op n (sendEvents s.cfg P b) R rest v := by
  obtain ⟨t, hexec, hop, ⟨hst, -⟩, -, -, hexp, -, -, -, -, htx, henv⟩ := h
  have hinv := exec_inv hq hl hexec
  have hcaller := henv.caller.trans hc
  obtain ⟨h0, h1, h2⟩ := Op.code_of_pollResponse ho
  rw [← hop] at h0 h1 h2
  obtain ⟨m, hrun⟩ := hinv.runs_awaitRsp hst hcaller htx h0 h1 h2 (henv.transport.trans ht)
  refine ⟨t, _, hexec, hrun, hinv.of_runs hrun, rfl, hop, henv.cfg, hexp, hcaller, rfl, ?_⟩
  rw [← henv.history, ← henv.cfg, List.append_assoc]
  rfl

end

/-- An accepted operation that reads only is about to read its response one step later. -/
theorem AcceptedToPoll.runs_awaitRsp (h : AcceptedToPoll i s n T) {R : List Byte} (ho : i.op.readsResponse = true)
    (ht : s.transport = [.readOk [readyByte], .readOk R] ++ rest) :
    ∃ t v, exec i s = .next t ∧ runs 1 t = .next v ∧ AwaitsResponse s i.op n [] R rest v := by
  obtain ⟨t, hexec, hop, ⟨hst, -⟩, -, -, hexp, h0, -, -, -, -, henv⟩ := h
  have hinv := exec_inv hq hl hexec
  have hcaller := henv.caller.trans hc
  have hready := hinv.sessionStep_readyRsp (rest := .readOk R :: rest) hst h0 (hop ▸ Op.code_of_readsResponse ho)
    (henv.transport.trans ht)
  have hrun := hinv.runs_sessionStep (runs_zero t) hcaller hready
  refine ⟨t, _, hexec, hrun, hinv.of_runs hrun, rfl, hop, henv.cfg, hexp, hcaller, rfl, ?_⟩
  rw [← henv.history, ← henv.cfg, List.append_nil]
  rfl

end

/-! ### The response -/

/-- A response that the interpretation of its operation accepts is the end of the exchange, one step later. -/
theorem AwaitsResponse.runs_done {s t v : State} {o : Op} {k n : Nat} {evs : List Event} {c : Byte} {d : List Byte}
    {rest : List PortAnswer} {r : Results} (h : AwaitsResponse s o n evs (c :: d) rest v) (hrun : runs k t = .next v)
    (hl : d.length = n) (hacc : ResponseAccepted s.cfg d)
    (hint : ∀ w : State, w.op = o.code → w.cfg = s.cfg → interpret d w = w.finish .ok r) (hflag : r.flag = none)
    (hroom : (r.bytes.getD []).length ≤ s.cfg.rxMaxFrame) :
    ∃ u, runs (k + 1) t = .next u ∧ u.rxlen = n + 1 ∧
      s.DoneWith (evs ++ responseEvents s.cfg (c :: d)) rest (r.word.getD 0) (r.bytes.getD []) u := by
  obtain ⟨hfits, -⟩ := (regsLegal_iff v).1 h.inv.regs
  have hbusy : v.st.quiescent = false := by rw [h.st]; rfl
  obtain ⟨hf, hw, -⟩ := h.inv.noResult hbusy
  obtain ⟨hlen, hres⟩ := h.inv.result_empty hbusy
  have hR : (c :: d).length = n + 1 := by rw [List.length_cons, hl]
  obtain ⟨-, hread⟩ := stepResponse_eq hfits (readAnswered_script h.transport (by rw [hR, h.expLen]))
  obtain ⟨-, hgood, -⟩ := hread _ rfl
  let w := (v.afterEvent (.read v.cfg.peerAddr (v.expLen + 1) (.readOk (c :: d))) rest v.oracleCalls).storeRead
    (Memory.setAll v.rxbuf 0 (c :: d)) (v.expLen + 1)
  have hstep : step v = w.finish .ok r :=
    (step_session h.inv.params h.inv.regs h.caller).trans
      ((sessionStep_response h.inv.op h.st).trans ((hgood (h.cfg ▸ hacc)).trans (hint w h.op h.cfg)))
  have hhist : w.history = s.history ++ (evs ++ responseEvents s.cfg (c :: d)) := by
    rw [responseEvents_eq hR, ← h.expLen, ← List.append_assoc, List.append_cons _ (readyEvent s.cfg), ← h.history,
      ← h.cfg]
    rfl
  have hrx : w.rxlen = n + 1 := congrArg (· + 1) h.expLen
  have hflagged : r.flag.getD w.resFlag = false := by rw [hflag]; exact hf
  have hword : r.word.getD w.resWord = r.word.getD 0 := congrArg r.word.getD hw
  cases hb : r.bytes with
  | none =>
    exact ⟨_, runs_snoc hrun (hstep.trans (finish_none w hb)), hrx, ⟨rfl, rfl, rfl, rfl⟩,
      ⟨hflagged, hword, hlen, hres ▸ (Memory.holds_nil_iff []).2 Memory.empty_nil⟩, rfl, hhist⟩
  | some bs =>
    rw [hb, ← h.cfg] at hroom
    exact ⟨_, runs_snoc hrun (hstep.trans (finish_bytes_fresh (s := w) hres hb hroom)), hrx, ⟨rfl, rfl, rfl, rfl⟩,
      ⟨hflagged, hword, rfl, Memory.holds_setAll_nil bs⟩, rfl, hhist⟩

/-! ### The statements -/

/-- Settles O37: the three steps of a command whose exchange ends with the ack. -/
theorem sendOnlyExchangesComplete : Obligations.SendOnlyExchangesComplete := by
  intro s b rest hq hl hc ht
  obtain ⟨hsend, -, -, -, hdetect⟩ := sendingOperationsAreAccepted s hq hl
  refine ⟨fun data T hwf => ?_, fun brty h3 => ?_⟩
  · obtain ⟨t, u, hexec, hrun, ⟨hrep, hgives, htr, hhist⟩, hrx⟩ :=
      (hsend data T hwf).runs_done hq hl hc (.inl rfl) ht
    exact ⟨t, u, hexec, hrun, hrep, hgives, hrx, htr, hhist⟩
  · obtain ⟨t, u, hexec, hrun, ⟨hrep, hgives, htr, hhist⟩, -⟩ :=
      (hdetect brty h3).runs_done hq hl hc (.inr rfl) ht
    exact ⟨t, u, hexec, hrun, hrep, hgives, htr, hhist⟩

/-- Settles O38: four steps to the response, which is handed back. -/
theorem transceiveExchangeCompletes : Obligations.TransceiveExchangeCompletes := by
  intro s data d n T b c rest hq hl hc hwf hd hacc ht
  obtain ⟨-, htransceive, -⟩ := sendingOperationsAreAccepted s hq hl
  obtain ⟨-, hn, -⟩ := transceive_wellFormed hwf
  obtain ⟨t, v, hexec, hrun, hv⟩ :=
    (htransceive data n T hwf).runs_awaitRsp hq hl hc rfl ht
  obtain ⟨u, hu, hrx, hrep, hgives, htr, hhist⟩ :=
    hv.runs_done hrun hd hacc (fun w hw _ => interpret_raw (.inl hw)) rfl (hd.trans_le hn)
  exact ⟨t, u, hexec, hu, hrep, hgives, hrx, htr, hhist.trans (List.append_assoc ..).symm⟩

/-- Settles O39: four steps to the response, and the version from behind its header. -/
theorem firmwareExchangeCompletes : Obligations.FirmwareExchangeCompletes := by
  intro s T b c x y z chip major minor build rest d hq hl hc hacc ht
  obtain ⟨-, -, hfirmware, -⟩ := sendingOperationsAreAccepted s hq hl
  obtain ⟨t, v, hexec, hrun, hv⟩ :=
    (hfirmware T).runs_awaitRsp hq hl hc rfl ht
  obtain ⟨u, hu, -, hrep, hgives, htr, hhist⟩ := hv.runs_done hrun rfl hacc
    (fun w hw _ => (interpret_firmware hw).trans
      (interpretFirmware_accepted (chip := chip) (major := major) (minor := minor) (build := build) rfl rfl rfl)) rfl
    (Params.le_rxMaxFrame s.cfg (show 4 ≤ 20 by decide))
  rw [Option.getD_some, Option.getD_some, packVersion_eq_append] at hgives
  exact ⟨t, u, hexec, hu, hrep, hgives, htr, hhist.trans (List.append_assoc ..).symm⟩

/-- Settles O40: four steps to the response, and its marker is right. -/
theorem samExchangeCompletes : Obligations.SamExchangeCompletes := by
  intro s d b c rest hq hl h3 hc hd hmarker hacc ht
  obtain ⟨-, -, -, hsam, -⟩ := sendingOperationsAreAccepted s hq hl
  obtain ⟨t, v, hexec, hrun, hv⟩ := (hsam h3).runs_awaitRsp hq hl hc rfl ht
  obtain ⟨u, hu, -, hrep, hgives, htr, hhist⟩ := hv.runs_done hrun hd hacc
    (fun w hw hcfg => (interpret_sam hw).trans (interpretSam_accepted hd (hcfg ▸ hmarker))) rfl (Nat.zero_le _)
  exact ⟨t, u, hexec, hu, hrep, hgives, htr, hhist.trans (List.append_assoc ..).symm⟩

/-- Settles O41: the ready byte ends WAIT_READY, and the other two read their response next. -/
theorem readOnlyExchangesComplete : Obligations.ReadOnlyExchangesComplete := by
  intro s d c rest hq hl hc hacc ht
  obtain ⟨hwait, hread, htarget⟩ := pollingOperationsAreAccepted s hq
  refine ⟨fun T => ?_, fun n T hn hd => ?_, fun T u₀ hd hcount hlen hfits => ?_⟩
  · obtain ⟨t, hexec, hop, ⟨hst, -⟩, ⟨hflag, hword, hreslen, hres⟩, -, -, -, -, -, -, -, henv⟩ := hwait T
    have hinv := exec_inv hq hl hexec
    obtain ⟨-, -, -, hready, -⟩ := pollStepFollowsItsRule t _ _ _ (.inr hst) hinv.op
      (readAnswered_script (henv.transport.trans ht) rfl)
    refine ⟨t, _, hexec, hinv.runs_sessionStep (runs_zero t) (henv.caller.trans hc) (hready rfl hst hop),
      ⟨rfl, rfl, rfl, rfl⟩, ⟨hflag, hword, hreslen, hres⟩, ?_⟩
    rw [← henv.history, ← henv.cfg]
    rfl
  · obtain ⟨t, v, hexec, hrun, hv⟩ := (hread n T hn).runs_awaitRsp hq hl hc rfl ht
    obtain ⟨u, hu, -, hrep, hgives, htr, hhist⟩ :=
      hv.runs_done hrun hd hacc (fun w hw _ => interpret_raw (.inr hw)) rfl (hd.trans_le hn)
    exact ⟨t, u, hexec, hu, hrep, hgives, htr, hhist⟩
  · obtain ⟨t, v, hexec, hrun, hv⟩ := (htarget T).runs_awaitRsp hq hl hc rfl ht
    have huid : slice d s.cfg.uidOffset (s.cfg.uidOffset + u₀.toNat) =
        (d.drop s.cfg.uidOffset.val).take u₀.toNat := by rw [slice, Nat.add_sub_cancel_left]
    obtain ⟨u, hu, -, hrep, hgives, htr, hhist⟩ := hv.runs_done hrun hd hacc
      (r := { bytes := some ((d.drop s.cfg.uidOffset.val).take u₀.toNat) })
      (fun w hw hcfg => by
        rw [interpret_target hw, interpretTarget_accepted hd (hcfg ▸ hcount) (hcfg ▸ hlen) (hcfg ▸ hfits), hcfg, huid])
      rfl (Params.le_rxMaxFrame s.cfg (by rw [Option.getD_some, List.length_take]; omega))
    exact ⟨t, u, hexec, hu, hrep, hgives, htr, hhist⟩

end Sys2Proof.Machine
end
